-- ==== Sys2Proof/Word.lean ====
section
/-! DEFINITION. The widths of the CORE (rule R2 of 00_scope.md; formats of rules R40, R41, R45 of 30_encoding.md). -/

namespace Sys2Proof

/-- A 64-bit cipher block; bit 63 is the most significant (rules R2, R5, R31). -/
abbrev Block := BitVec 64

/-- A 4-bit nibble of a block (rules R2, R6). -/
abbrev Nibble := BitVec 4

/-- The 128-bit key port `in_key` (rules R2, R41). -/
abbrev KeyWord := BitVec 128

/-- The 193-bit command vector `CMD[192:0]` (rules R40, R41). -/
abbrev CmdWord := BitVec 193

/-- The 12-bit micro-operation word `U[11:0]` (rules R40, R45). -/
abbrev UopWord := BitVec 12

end Sys2Proof
end

