-- ==== Sys2Proof/Config.lean ====
section
/-! DEFINITION. What one implementation of the CORE fixes: the shape of the constant tables (rule R3), the
latency parameter (rule R4), the laws both must satisfy (rules R3, R4, R76, R94, R95), and the values the spec
leaves open. The tables and the latency of an instance are fields of `State` that no step writes, so a statement
about every state is a statement about every table and every latency (notes/assumptions/1.md, 2.md). -/

namespace Sys2Proof

/-- The mode of a command: 0 = FORWARD (encrypt), 1 = BACKWARD (decrypt) (rules R13, R43, R100). -/
inductive Mode where
  | forward
  | backward
  deriving DecidableEq, Repr, Inhabited

/-- The constant tables of one instance, the parameter `Tables` of rule R3, as plain data. -/
structure Tables where
  /-- SBOX (rule R70). -/
  sbox    : Vector (Fin 16) 16
  /-- SBOX_INV (rule R70). -/
  sboxInv : Vector (Fin 16) 16
  /-- SR, the source index of each output nibble (rule R73). -/
  sr      : Vector (Fin 16) 16
  /-- SR_INV (rule R73). -/
  srInv   : Vector (Fin 16) 16
  /-- RC0 to RC10 (rule R94). -/
  rc      : Vector Block 11
  alpha   : Block
  beta    : Block
  /-- MPAT, the diagonal patterns of M0 to M3 (rule R76). -/
  mpat    : Vector Nibble 4
  deriving DecidableEq, Repr

/-- LATENCY(mode), the edges from accept to completion (rule R4): one number for each mode. -/
structure Latency where
  enc : Nat
  dec : Nat
  deriving DecidableEq, Repr

/-- SBOX and SBOX_INV are mutually inverse (rules R3, R70). -/
abbrev Tables.SboxInverse (t : Tables) : Prop :=
  (∀ n : Fin 16, t.sboxInv.get (t.sbox.get n) = n) ∧ (∀ n : Fin 16, t.sbox.get (t.sboxInv.get n) = n)

/-- SR and SR_INV are mutually inverse (rules R3, R73). -/
abbrev Tables.ShiftInverse (t : Tables) : Prop :=
  (∀ i : Fin 16, t.srInv.get (t.sr.get i) = i) ∧ (∀ i : Fin 16, t.sr.get (t.srInv.get i) = i)

/-- MPAT = (7, 11, 13, 14) (rules R3, R18, R76). -/
abbrev Tables.StandardPatterns (t : Tables) : Prop :=
  t.mpat = #v[0x7#4, 0xb#4, 0xd#4, 0xe#4]

/-- The constant pairing of rule R95, with the constant of index `j + 1` against that of index `10 - j`:
`RC_i ⊕ RC_(11-i)` is ALPHA for i in 1, 3, 5, 6, 8, 10 and BETA for i in 2, 4, 7, 9. -/
abbrev Tables.ConstantsPaired (t : Tables) : Prop :=
  ∀ j : Fin 10, t.rc.get j.succ ^^^ t.rc.get ⟨10 - j.val, by omega⟩ =
    if j.val + 1 ∈ [1, 3, 5, 6, 8, 10] then t.alpha else t.beta

/-- The laws a `Tables` must satisfy (rule R3 with the split of rule R95): mutually inverse S-box and shift
tables, RC0 = 0, the constant pairing, and the four diagonal patterns. -/
abbrev Tables.Lawful (t : Tables) : Prop :=
  t.SboxInverse ∧ t.ShiftInverse ∧ t.rc.get 0 = 0#64 ∧ t.ConstantsPaired ∧ t.StandardPatterns

/-- LATENCY(m) ≥ 1 in both modes (rule R4). -/
abbrev Latency.Lawful (l : Latency) : Prop :=
  1 ≤ l.enc ∧ 1 ≤ l.dec

/-! ### Values the spec leaves open

Each is a constant with no body, applied to the number of the rising edge: nothing can be proved about its value.
The first seven are the draws a reset edge takes (rules R22, R140; U2 of 93_implementation_defined.md), the eighth is
`out_data` while `out_valid = 0` (rule R16; U1). -/

/-- CNT after the reset edge of the given number. -/
opaque Config.freeCnt : Nat → Nat
/-- RES after the reset edge of the given number. -/
opaque Config.freeRes : Nat → Block
/-- ST after the reset edge of the given number. -/
opaque Config.freeSt : Nat → Block
/-- K0R after the reset edge of the given number. -/
opaque Config.freeK0r : Nat → Block
/-- K1R after the reset edge of the given number. -/
opaque Config.freeK1r : Nat → Block
/-- MODE after the reset edge of the given number. -/
opaque Config.freeMode : Nat → Mode
/-- UPC after the reset edge of the given number, one of the 59 positions (rule R17). -/
opaque Config.freeUpc : Nat → Fin 59
/-- The port `out_data` while `out_valid = 0`, after the given number of edges. -/
opaque Config.freeOutData : Nat → Block

/-! Before the first reset edge after power-up every field is a draw (rule R143; U3 of 93_implementation_defined.md). -/

/-- Whether PHASE is BUSY at power-up. -/
opaque Config.powerUpBusy : Bool
/-- OV at power-up. -/
opaque Config.powerUpOv : Bool
/-- CNT at power-up. -/
opaque Config.powerUpCnt : Nat
/-- RES at power-up. -/
opaque Config.powerUpRes : Block
/-- ST at power-up. -/
opaque Config.powerUpSt : Block
/-- K0R at power-up. -/
opaque Config.powerUpK0r : Block
/-- K1R at power-up. -/
opaque Config.powerUpK1r : Block
/-- MODE at power-up. -/
opaque Config.powerUpMode : Mode
/-- UPC at power-up, one of the 59 positions (rule R17). -/
opaque Config.powerUpUpc : Fin 59

end Sys2Proof
end

