-- ==== Sys2Proof/Machine/Block.lean ====
section
/-! DEFINITION. The value-level primitives of 40_block_key.md: the nibble view of a block, the key halves and the
decryption-key transform. -/

namespace Sys2Proof.Machine

/-- `nib(B, i) = B[63-4i : 60-4i]`: nibble 0 is the most significant (rules R6, R60). -/
def nib (b : Block) (i : Fin 16) : Nibble :=
  b.extractLsb' (60 - 4 * i.val) 4

/-- `fromNibbles(n0, …, n15) = n0 ‖ … ‖ n15` (rule R6). -/
def fromNibbles (f : Fin 16 → Nibble) : Block :=
  f 0 ++ f 1 ++ f 2 ++ f 3 ++ f 4 ++ f 5 ++ f 6 ++ f 7 ++
  f 8 ++ f 9 ++ f 10 ++ f 11 ++ f 12 ++ f 13 ++ f 14 ++ f 15

/-- `setNib(B, i, v)`: B with the field of nibble i replaced by v (rule R61). -/
def setNib (b : Block) (i : Fin 16) (v : Nibble) : Block :=
  (b &&& ~~~((0xf#64) <<< (60 - 4 * i.val))) ||| (v.setWidth 64 <<< (60 - 4 * i.val))

/-- k0 = in_key[127:64] (rules R32, R63). -/
def keyHalf0 (key : KeyWord) : Block := key.extractLsb' 64 64

/-- k1 = in_key[63:0] (rules R32, R63). -/
def keyHalf1 (key : KeyWord) : Block := key.extractLsb' 0 64

/-- `decKey(k0, k1) = (k1 ⊕ BETA, k0 ⊕ ALPHA)` (rule R65, C1 of 90_conflicts.md). -/
def decKey (t : Tables) (k0 k1 : Block) : Block × Block :=
  (k1 ^^^ t.beta, k0 ^^^ t.alpha)

end Sys2Proof.Machine
end

