-- ==== Sys2Proof/Machine/LayerFns.lean ====
section
/-! DEFINITION. The layers of 41_layers.md as pure functions of the whole block (rules R8, R147), for any tables. -/

namespace Sys2Proof.Machine

/-- One nibble through a 16-entry table (rule R70). -/
def lookup (table : Vector (Fin 16) 16) (n : Nibble) : Nibble :=
  BitVec.ofFin (table.get n.toFin)

/-- A table applied to each of the 16 nibbles independently (rules R71, R72). -/
def substitute (table : Vector (Fin 16) 16) (x : Block) : Block :=
  fromNibbles fun i => lookup table (nib x i)

/-- Output nibble i is input nibble `table[i]`: a gather (rules R74, R75). -/
def gather (table : Vector (Fin 16) 16) (x : Block) : Block :=
  fromNibbles fun i => nib x (table.get i)

/-- The forward S-layer (rule R71). -/
def sLayer (t : Tables) (x : Block) : Block := substitute t.sbox x

/-- The inverse S-layer (rule R72). -/
def sLayerInv (t : Tables) (x : Block) : Block := substitute t.sboxInv x

/-- The forward shift-row (rule R74). -/
def shiftRow (t : Tables) (x : Block) : Block := gather t.sr x

/-- The inverse shift-row (rule R75). -/
def shiftRowInv (t : Tables) (x : Block) : Block := gather t.srInv x

/-- `MPAT[c(i,j)] & n_j` with `c(i,j) = (i + j + shift) mod 4`: shift 0 is M̂0, shift 1 is M̂1 (rules R76, R77). -/
def mTerm (t : Tables) (shift : Nat) (i j : Fin 4) (n : Nibble) : Nibble :=
  t.mpat.get ⟨(i.val + j.val + shift) % 4, Nat.mod_lt _ (by decide)⟩ &&& n

/-- Output nibble i of a block matrix on a group of four nibbles: `o_i = ⊕_j (MPAT[c(i,j)] & n_j)` (rule R77). -/
def mHat (t : Tables) (shift : Nat) (g : Fin 4 → Nibble) (i : Fin 4) : Nibble :=
  mTerm t shift i 0 (g 0) ^^^ mTerm t shift i 1 (g 1) ^^^ mTerm t shift i 2 (g 2) ^^^ mTerm t shift i 3 (g 3)

/-- M̂0 acts on groups 0 and 3, M̂1 on groups 1 and 2 (rule R78). -/
def groupShift (k : Nat) : Nat := if k = 1 ∨ k = 2 then 1 else 0

/-- The M-layer: each output nibble from its own group of four input nibbles (rule R78). -/
def mLayer (t : Tables) (x : Block) : Block :=
  fromNibbles fun i =>
    mHat t (groupShift (i.val / 4)) (fun j => nib x ⟨4 * (i.val / 4) + j.val, by omega⟩)
      ⟨i.val % 4, Nat.mod_lt _ (by decide)⟩

end Sys2Proof.Machine
end

