-- ==== Sys2Proof/Machine/Rounds.lean ====
section
/-! DEFINITION. The round functions, the middle layer and the whole pipeline as pure functions (42_rounds.md and
43_core.md section 1). -/

namespace Sys2Proof.Machine

/-- `fwdRound(x, k, rc) = SR(ML(SL(x))) ⊕ rc ⊕ k` (rule R90). -/
def fwdRound (t : Tables) (x k rc : Block) : Block :=
  shiftRow t (mLayer t (sLayer t x)) ^^^ rc ^^^ k

/-- `invRound(x, k, rc) = SLI(ML(SRI(x ⊕ k ⊕ rc)))` (rule R91). -/
def invRound (t : Tables) (x k rc : Block) : Block :=
  sLayerInv t (mLayer t (shiftRowInv t (x ^^^ k ^^^ rc)))

/-- A key half after the reflection point: XORed with ALPHA ⊕ BETA in decryption mode, else unchanged (rules R82, R97). -/
def flipHalf (t : Tables) (mode : Mode) (k : Block) : Block :=
  match mode with
  | .forward => k
  | .backward => k ^^^ (t.alpha ^^^ t.beta)

/-- The new state and working keys of the middle layer (rule R97). -/
def mid (t : Tables) (x k0 k1 : Block) (mode : Mode) : Block × Block × Block :=
  let y := mLayer t (sLayer t x ^^^ k0)
  (sLayerInv t (y ^^^ (flipHalf t mode k1 ^^^ t.beta)), flipHalf t mode k0, flipHalf t mode k1)

/-- The key half of round i: k1 for odd i, k0 for even i, in both halves of the pipeline (rule R92). -/
def roundKey (i : Nat) (k0 k1 : Block) : Block :=
  if i % 2 = 1 then k1 else k0

/-- The forward rounds of the given indexes, in order, from the state x (rules R92, R93, R100). -/
def forwardRounds (t : Tables) (k0 k1 : Block) (rounds : List (Fin 11)) (x : Block) : Block :=
  rounds.foldl (fun s i => fwdRound t s (roundKey i.val k0 k1) (t.rc.get i)) x

/-- The backward rounds of the given indexes, in order, from the state x (rules R92, R93, R100). -/
def backwardRounds (t : Tables) (k0 k1 : Block) (rounds : List (Fin 11)) (x : Block) : Block :=
  rounds.foldl (fun s i => invRound t s (roundKey i.val k0 k1) (t.rc.get i)) x

/-- `Core(k0, k1, x, mode)`: initial whitening with k0 and RC0, rounds 1 to 5, the middle, rounds 6 to 10 and the
final whitening with k1 ⊕ BETA, the last two with the keys as the middle leaves them (rule R100). -/
def princeCore (t : Tables) (k0 k1 x : Block) (mode : Mode) : Block :=
  let m := mid t (forwardRounds t k0 k1 [1, 2, 3, 4, 5] (x ^^^ k0 ^^^ t.rc.get 0)) k0 k1 mode
  backwardRounds t m.2.1 m.2.2 [6, 7, 8, 9, 10] m.1 ^^^ (m.2.2 ^^^ t.beta)

/-- `Encrypt(k0, k1, P) = Core(k0, k1, P, FORWARD)` (rule R101). -/
def encrypt (t : Tables) (k0 k1 p : Block) : Block :=
  princeCore t k0 k1 p .forward

/-- `Decrypt(k0, k1, C) = Core(decKey(k0, k1), C, BACKWARD)` (rule R102). -/
def decrypt (t : Tables) (k0 k1 c : Block) : Block :=
  princeCore t (decKey t k0 k1).1 (decKey t k0 k1).2 c .backward

end Sys2Proof.Machine
end

