-- ==== Sys2Proof/Machine/DefaultTables.lean ====
section
/-! DEFINITION. The default instantiation of `Tables` (rules R70, R73, R76, R94) and the latency that
`State.reset` carries. The entries of SBOX, SR, RC1 to RC10, ALPHA and BETA are marked in the spec as general
knowledge, not in its source (notes/assumptions/3.md, PRESUMED); the latency is a choice of the model
(notes/assumptions/2.md, DESIGN CHOICE). -/

namespace Sys2Proof.Machine

/-- The default tables of rules R70, R73, R76 and R94. -/
def defaultTables : Tables where
  sbox    := #v[0xb, 0xf, 0x3, 0x2, 0xa, 0xc, 0x9, 0x1, 0x6, 0x7, 0x8, 0x0, 0xe, 0x5, 0xd, 0x4]
  sboxInv := #v[0xb, 0x7, 0x3, 0x2, 0xf, 0xd, 0x8, 0x9, 0xa, 0x6, 0x4, 0x0, 0x5, 0xe, 0xc, 0x1]
  sr      := #v[0, 5, 10, 15, 4, 9, 14, 3, 8, 13, 2, 7, 12, 1, 6, 11]
  srInv   := #v[0, 13, 10, 7, 4, 1, 14, 11, 8, 5, 2, 15, 12, 9, 6, 3]
  rc      := #v[0x0000000000000000#64, 0x13198a2e03707344#64, 0xa4093822299f31d0#64, 0x082efa98ec4e6c89#64,
                0x452821e638d01377#64, 0xbe5466cf34e90c6c#64, 0x7ef84f78fd955cb1#64, 0x7aacf4538d971a60#64,
                0xc882d32f25323c54#64, 0x9b8ded979cd838c7#64, 0xd3b5a399ca0c2399#64]
  alpha   := 0xc0ac29b7c97c50dd#64
  beta    := 0x3f84d5b5b5470917#64
  mpat    := #v[0x7#4, 0xb#4, 0xd#4, 0xe#4]

/-- The latency `State.reset` carries: one edge in either mode, the smallest rule R4 allows. DESIGN CHOICE. -/
def defaultLatency : Latency := ⟨1, 1⟩

end Sys2Proof.Machine
end

