-- ==== Sys2Proof/Syntax.lean ====
section
/-! DEFINITION. The instructions of the CORE: the two commands and the eight micro-operations of
spec/opcode_table.json, one constructor for each row, and the ways a UOP word can be reserved (rule R48). -/

namespace Sys2Proof

/-- A command (ENC, DEC) with its operands, or a micro-operation with its operand field. -/
inductive Instr where
  /-- `ENC k0, k1, d` (rule R107). -/
  | enc (k0 k1 d : Block)
  /-- `DEC k0, k1, d`, where (k0, k1) is the encryption key (rule R108). -/
  | dec (k0 k1 d : Block)
  /-- The forward S-layer (rule R71). -/
  | sl
  /-- The inverse S-layer (rule R72). -/
  | sli
  /-- The M-layer (rule R78). -/
  | ml
  /-- The forward shift-row (rule R74). -/
  | sr
  /-- The inverse shift-row (rule R75). -/
  | sri
  /-- `XRC i`, with the whole 4-bit field arg: 0 to 10 are legal (rules R47, R80). -/
  | xrc (i : BitVec 4)
  /-- `XK sel`, with the field arg[1:0]: 00 K0, 01 K1, 10 K1B (rules R47, R81). -/
  | xk (sel : BitVec 2)
  /-- The conditional key flip (rule R82). -/
  | kflip
  deriving DecidableEq, Repr

/-- Why a UOP word is reserved (rule R48). -/
inductive Reserved where
  /-- op is 0x0 or 0x9 to 0xF. -/
  | opcode
  /-- The field z is not 0000. -/
  | zField
  /-- arg is not 0000 on SL, SLI, ML, SR, SRI or KFLIP. -/
  | argNotZero
  /-- XRC with arg 11 to 15. -/
  | rcIndex
  /-- XK with arg[1:0] = 11. -/
  | keySelect
  /-- XK with arg[3:2] not 00. -/
  | keyHighBits
  deriving DecidableEq, Repr

end Sys2Proof
end

