-- ==== Sys2Proof/Machine/State.lean ====
section
/-! DEFINITION. The complete state of one CORE instance (rule R22), with the port values the host drives at the
coming rising edges, as plain data; the reasons a step can stop; and the state right after reset (rule R140). -/

namespace Sys2Proof.Machine

/-- The sequencer's phase (rule R14). -/
inductive Phase where
  | idle
  | busy
  deriving DecidableEq, Repr

/-- The input ports at one rising edge (rule R41). -/
structure Inputs where
  /-- Synchronous reset, active high (rule R140). -/
  rst     : Bool
  /-- A command is presented. -/
  inValid : Bool
  /-- CMD[192]. -/
  inMode  : Bool
  /-- CMD[191:64]. -/
  inKey   : KeyWord
  /-- CMD[63:0]. -/
  inData  : Block
  deriving DecidableEq, Repr

/-- Why the machine could stop with a fault: it has none. No command and no micro-operation has a failure outcome
(rule R120), so the type has no constructor. -/
inductive Fault where
  deriving DecidableEq, Repr

/-- Why an instruction is refused. -/
inductive Refusal where
  /-- Raised by an arm of `exec` for an instruction that has no meaning yet; no arm does. Safe. -/
  | notModelled (mnemonic : String)
  /-- Raised by the meanings of XRC and XK on a reserved operand, and by the step where a fetched word is reserved,
  which no word of the fixed micro-sequence is: rule R48 says to refuse such a word. Safe. -/
  | reservedUop (why : Reserved)
  deriving DecidableEq, Repr

/-- The state of one CORE instance (rule R22). -/
structure State where
  /-- PHASE (rule R14). -/
  phase   : Phase
  /-- CNT, the edges left while BUSY (rule R14). -/
  cnt     : Nat
  /-- OV, the output-valid flag (rule R15). -/
  ov      : Bool
  /-- RES, the result register (rule R15). -/
  res     : Block
  /-- ST, the cipher state register (rule R11). -/
  st      : Block
  /-- K0R, the working round key rk0 (rule R12). -/
  k0r     : Block
  /-- K1R, the working round key rk1 (rule R12). -/
  k1r     : Block
  /-- MODE of the command in flight (rule R13). -/
  mode    : Mode
  /-- UPC, the position in the micro-sequence, and 59 once it is complete (rules R17, R105; notes/assumptions/7.md). -/
  upc     : Fin 60
  /-- The constant tables of this instance (rules R3, R18). -/
  tables  : Tables
  /-- LATENCY of this instance (rule R4). -/
  latency : Latency
  /-- The port values at the coming rising edges, the next edge first (notes/assumptions/8.md). -/
  inputs  : List Inputs
  /-- The model's own count of rising edges, which the free values are drawn by (notes/assumptions/5.md). -/
  edges   : Nat
  deriving DecidableEq, Repr

/-- The state right after reset: PHASE = IDLE and OV = 0 as rules R22 and R140 say, the default tables (rule R3),
and for each register to which the spec gives no reset value the value that notes/assumptions/4.md names
(DESIGN CHOICE; the latency by 2.md). -/
def State.reset : State where
  phase   := .idle
  cnt     := 0
  ov      := false
  res     := 0#64
  st      := 0#64
  k0r     := 0#64
  k1r     := 0#64
  mode    := .forward
  upc     := 0
  tables  := defaultTables
  latency := defaultLatency
  inputs  := []
  edges   := 0

end Sys2Proof.Machine
end

