-- ==== Sys2Proof/Machine/Operands.lean ====
section
/-! DEFINITION. Every operand form of the CORE: the ports at the coming edge and the command vector they form
(rules R41, R42), the round constant of XRC and the key value of XK (rule R47), the working keys a command loads
(rule R110), and the latency of a mode (rule R4). -/

namespace Sys2Proof.Machine

/-- Ports at an edge for which the host has given no values: no reset and no command
(notes/assumptions/8.md, DESIGN CHOICE). -/
def quietPorts : Inputs := ⟨false, false, false, 0#128, 0#64⟩

/-- The ports at the coming rising edge. -/
def State.ports (s : State) : Inputs :=
  match s.inputs with
  | [] => quietPorts
  | i :: _ => i

/-- `CMD = in_mode ‖ in_key ‖ in_data` (rule R41). -/
def Inputs.cmd (i : Inputs) : CmdWord :=
  BitVec.ofBool i.inMode ++ i.inKey ++ i.inData

/-- RC[i] for a legal index, none for 11 to 15 (rules R47, R80). -/
def rcOperand (t : Tables) (i : BitVec 4) : Option Block :=
  if h : i.toNat < 11 then some (t.rc.get ⟨i.toNat, h⟩) else none

/-- K0R, K1R or K1R ⊕ BETA by the selector, none for 11 (rules R47, R81). -/
def keyOperand (s : State) (sel : BitVec 2) : Option Block :=
  if sel = 0#2 then some s.k0r
  else if sel = 1#2 then some s.k1r
  else if sel = 2#2 then some (s.k1r ^^^ s.tables.beta)
  else none

/-- The working keys the accept step loads: the key itself for FORWARD, the decryption key for BACKWARD (rule R110). -/
def loadedKeys (t : Tables) (mode : Mode) (k0 k1 : Block) : Block × Block :=
  match mode with
  | .forward => (k0, k1)
  | .backward => decKey t k0 k1

/-- LATENCY(mode) (rule R4). -/
def latencyOf (l : Latency) (mode : Mode) : Nat :=
  match mode with
  | .forward => l.enc
  | .backward => l.dec

end Sys2Proof.Machine
end

