-- ==== Sys2Proof/Machine/Flags.lean ====
section
/-! DEFINITION. The status outputs and the output-valid flag (rules R15, R16). The CORE has no condition codes: no
micro-operation writes a flag, and OV is set by completion and cleared by accept and reset alone. -/

namespace Sys2Proof.Machine

/-- `in_ready = (PHASE = IDLE) ∧ ¬rst`, for a given level of rst (rule R16). -/
def State.readyAt (s : State) (rst : Bool) : Bool :=
  decide (s.phase = .idle) && !rst

/-- `in_ready` at the coming edge (rule R16). -/
def State.inReady (s : State) : Bool := s.readyAt s.ports.rst

/-- `out_valid = OV` (rule R16). -/
def State.outValid (s : State) : Bool := s.ov

/-- `out_data`: RES while OV = 1, and an unspecified value while OV = 0 (rule R16; U1 of
93_implementation_defined.md; notes/assumptions/6.md). -/
def State.outData (s : State) : Block :=
  match s.ov with
  | true => s.res
  | false => Config.freeOutData s.edges

end Sys2Proof.Machine
end

