-- ==== Sys2Proof/Machine/Ops.lean ====
section
/-! DEFINITION. The named operations the meanings and the step are written with: a write of ST, the accept, busy,
completion, hold and reset effects of a rising edge (rules R110 to R113, R140), and the passing of an edge. The CORE
has no memory (rule R30) and takes no exception: there is no trap entry and no return (rules R120, R124); reset,
which saves nothing, is the one event that breaks a command off (rule R141). -/

namespace Sys2Proof.Machine

/-- ST ← v. -/
def State.setSt (s : State) (v : Block) : State := { s with st := v }

/-- ST ← ST ⊕ v (rules R62, R80, R81). -/
def State.xorSt (s : State) (v : Block) : State := s.setSt (s.st ^^^ v)

/-- The key flip: both working keys XORed with ALPHA ⊕ BETA when MODE = 1, and no change when MODE = 0 (rule R82). -/
def State.flipKeys (s : State) : State :=
  { s with k0r := flipHalf s.tables s.mode s.k0r, k1r := flipHalf s.tables s.mode s.k1r }

/-- The accept step's register writes; RES is not changed (rule R110). -/
def State.accept (s : State) (mode : Mode) (k0 k1 d : Block) : State :=
  { s with
    mode  := mode
    k0r   := (loadedKeys s.tables mode k0 k1).1
    k1r   := (loadedKeys s.tables mode k0 k1).2
    st    := d
    upc   := 0
    ov    := false
    phase := .busy
    cnt   := latencyOf s.latency mode }

/-- A command presented at the ports: accepted if in_ready, else ignored, neither queued nor remembered
(rules R110, R113). -/
def State.offer (s : State) (mode : Mode) (k0 k1 d : Block) : State :=
  if s.inReady then s.accept mode k0 k1 d else s

/-- The completion step: RES takes the result, which the complete micro-sequence has left in ST (rules R104, R111). -/
def State.complete (s : State) : State :=
  { s with res := s.st, ov := true, phase := .idle }

/-- The busy step: CNT counts down, and at CNT = 1 the command completes (rule R111). -/
def State.busyOrComplete (s : State) : State :=
  if s.cnt > 1 then { s with cnt := s.cnt - 1 } else s.complete

/-- The reset step: PHASE ← IDLE, OV ← 0, tables unchanged, every other register a draw (rules R22, R140). -/
def State.resetRegs (s : State) : State :=
  { s with
    phase := .idle
    ov    := false
    cnt   := Config.freeCnt s.edges
    res   := Config.freeRes s.edges
    st    := Config.freeSt s.edges
    k0r   := Config.freeK0r s.edges
    k1r   := Config.freeK1r s.edges
    mode  := Config.freeMode s.edges
    upc   := (Config.freeUpc s.edges).castSucc }

/-- A rising edge has passed: the next edge's port values come up. -/
def State.tick (s : State) : State :=
  { s with inputs := s.inputs.tail, edges := s.edges + 1 }

/-- UPC ← UPC + 1; the sequence ends at 59 and never wraps (rules R17, R105). -/
def State.nextUop (s : State) : State :=
  { s with upc := if h : s.upc.val < 59 then ⟨s.upc.val + 1, by omega⟩ else s.upc }

/-- What the step adds to a meaning's next state; a fault or refusal stays as it is. -/
def andThen (o : Host.Outcome State Fault Refusal) (f : State → State) : Host.Outcome State Fault Refusal :=
  match o with
  | .next s => .next (f s)
  | .fault r => .fault r
  | .refused r => .refused r

end Sys2Proof.Machine
end

