-- ==== Sys2Proof/Machine/Commands.lean ====
section
/-! DEFINITION. The meanings of the two commands at the edge that presents them (43_core.md section 3): the accept
step if the CORE is ready, nothing if it is not (rules R110, R113; notes/assumptions/10.md). The result comes out of
the micro-sequence and the completion step that follow (rules R104, R111). -/

namespace Sys2Proof.Machine

/-- ENC k0, k1, d: MODE ← 0, K0R ← k0, K1R ← k1, ST ← d (rules R107, R110). -/
def execEnc (k0 k1 d : Block) (s : State) : Host.Outcome State Fault Refusal :=
  .next (s.offer .forward k0 k1 d)

/-- DEC k0, k1, d: MODE ← 1, (K0R, K1R) ← decKey(k0, k1), ST ← d (rules R108, R110). -/
def execDec (k0 k1 d : Block) (s : State) : Host.Outcome State Fault Refusal :=
  .next (s.offer .backward k0 k1 d)

end Sys2Proof.Machine
end

