-- ==== Sys2Proof/Machine/Layers.lean ====
section
/-! DEFINITION. The meanings of the eight micro-operations (41_layers.md). None writes OV, PHASE, CNT, RES or MODE, and
UPC is moved by the step, not by the meaning (rule R105). -/

namespace Sys2Proof.Machine

/-- SL: ST ← the S-box of each nibble (rule R71). -/
def execSl (s : State) : Host.Outcome State Fault Refusal :=
  .next (s.setSt (sLayer s.tables s.st))

/-- SLI: ST ← the inverse S-box of each nibble (rule R72). -/
def execSli (s : State) : Host.Outcome State Fault Refusal :=
  .next (s.setSt (sLayerInv s.tables s.st))

/-- ML: ST ← the M-layer of ST, the same layer wherever it stands (rule R78). -/
def execMl (s : State) : Host.Outcome State Fault Refusal :=
  .next (s.setSt (mLayer s.tables s.st))

/-- SR: ST ← the forward shift-row of ST (rule R74). -/
def execSr (s : State) : Host.Outcome State Fault Refusal :=
  .next (s.setSt (shiftRow s.tables s.st))

/-- SRI: ST ← the inverse shift-row of ST (rule R75). -/
def execSri (s : State) : Host.Outcome State Fault Refusal :=
  .next (s.setSt (shiftRowInv s.tables s.st))

/-- XRC i: ST ← ST ⊕ RC[i]; an index of 11 to 15 is reserved and refused (rules R48, R80). -/
def execXrc (i : BitVec 4) (s : State) : Host.Outcome State Fault Refusal :=
  match rcOperand s.tables i with
  | some v => .next (s.xorSt v)
  | none => .refused (.reservedUop .rcIndex)

/-- XK sel: ST ← ST ⊕ K0R, K1R or K1R ⊕ BETA; the selector 11 is reserved and refused (rules R48, R81). -/
def execXk (sel : BitVec 2) (s : State) : Host.Outcome State Fault Refusal :=
  match keyOperand s sel with
  | some v => .next (s.xorSt v)
  | none => .refused (.reservedUop .keySelect)

/-- KFLIP: both working keys flipped in decryption mode, no change in encryption mode (rule R82). -/
def execKflip (s : State) : Host.Outcome State Fault Refusal :=
  .next s.flipKeys

end Sys2Proof.Machine
end

