-- ==== Sys2Proof/Machine/Dispatch.lean ====
section
/-! DEFINITION. One arm per constructor of Instr, each a direct call of the instruction's meaning. -/

namespace Sys2Proof.Machine

def exec (i : Instr) (s : State) : Host.Outcome State Fault Refusal :=
  match i with
  | .enc k0 k1 d => Sys2Proof.Machine.execEnc k0 k1 d s
  | .dec k0 k1 d => Sys2Proof.Machine.execDec k0 k1 d s
  | .sl => Sys2Proof.Machine.execSl s
  | .sli => Sys2Proof.Machine.execSli s
  | .ml => Sys2Proof.Machine.execMl s
  | .sr => Sys2Proof.Machine.execSr s
  | .sri => Sys2Proof.Machine.execSri s
  | .xrc i' => Sys2Proof.Machine.execXrc i' s
  | .xk sel => Sys2Proof.Machine.execXk sel s
  | .kflip => Sys2Proof.Machine.execKflip s

end Sys2Proof.Machine
end

