-- ==== Sys2Proof/WellFormed.lean ====
section
/-! DEFINITION. The operand checks of rules R47 and R48: which instructions have a legal encoding. -/

namespace Sys2Proof

/-- The check an instruction's operand fails, if any: XRC takes 0 to 10, XK takes 00, 01 or 10 (rules R47, R48);
every command and every other micro-operation is legal (rules R43, R44). -/
def Instr.illFormed : Instr → Option Reserved
  | .enc _ _ _ => none
  | .dec _ _ _ => none
  | .sl => none
  | .sli => none
  | .ml => none
  | .sr => none
  | .sri => none
  | .xrc i => if i.toNat ≤ 10 then none else some .rcIndex
  | .xk sel => if sel = 3#2 then some .keySelect else none
  | .kflip => none

/-- Every operand is one its encoding admits (rules R43, R47, R48). -/
abbrev Instr.WellFormed (i : Instr) : Prop := i.illFormed = none

end Sys2Proof
end

