-- ==== Sys2Proof/Decode.lean ====
section
/-! DEFINITION. The two encoded formats of the CORE (rules R40 to R48): the decoder, total on every word and
rejecting a reserved word by the rule it breaks, and after it the encoder. Which format a word has is decided by
where it comes from, the ports or the micro-sequence (rule R51). -/

namespace Sys2Proof

/-- An encoded word of one of the two formats (rule R40). -/
inductive Encoded where
  /-- Format CMD, the 193-bit command vector (rule R41). -/
  | cmd (w : CmdWord)
  /-- Format UOP, the 12-bit micro-operation word (rule R45). -/
  | uop (w : UopWord)
  deriving DecidableEq, Repr

/-- CMD[192], the mode bit (rules R41, R42). -/
def cmdMode (w : CmdWord) : Bool := w.getLsbD 192
/-- CMD[191:128], the key half k0 (rules R41, R42). -/
def cmdK0 (w : CmdWord) : Block := w.extractLsb' 128 64
/-- CMD[127:64], the key half k1 (rules R41, R42). -/
def cmdK1 (w : CmdWord) : Block := w.extractLsb' 64 64
/-- CMD[63:0], the data block (rules R41, R42). -/
def cmdData (w : CmdWord) : Block := w.extractLsb' 0 64

/-- The command a CMD vector encodes: the mode bit alone is the opcode, and every vector is legal (rules R43, R44). -/
def decodeCmd (w : CmdWord) : Instr :=
  match cmdMode w with
  | false => .enc (cmdK0 w) (cmdK1 w) (cmdData w)
  | true => .dec (cmdK0 w) (cmdK1 w) (cmdData w)

/-- U[11:8], the micro-operation opcode (rule R45). -/
def uopOp (w : UopWord) : BitVec 4 := w.extractLsb' 8 4
/-- U[7:4], which must be 0000 (rule R45). -/
def uopZ (w : UopWord) : BitVec 4 := w.extractLsb' 4 4
/-- U[3:0], the operand field (rule R45). -/
def uopArg (w : UopWord) : BitVec 4 := w.extractLsb' 0 4

/-- A micro-operation without operand: arg must be 0000 (rules R47, R48). -/
def decodePlain (arg : BitVec 4) (i : Instr) : Except Reserved Instr :=
  if arg = 0#4 then .ok i else .error .argNotZero

/-- XRC: arg is the constant's index, 11 to 15 reserved (rules R47, R48). -/
def decodeXrc (arg : BitVec 4) : Except Reserved Instr :=
  if arg.toNat ≤ 10 then .ok (.xrc arg) else .error .rcIndex

/-- XK: arg[1:0] selects the key value, 11 reserved, and arg[3:2] must be 00 (rules R47, R48). -/
def decodeXk (arg : BitVec 4) : Except Reserved Instr :=
  if arg.extractLsb' 2 2 ≠ 0#2 then .error .keyHighBits
  else if arg.extractLsb' 0 2 = 3#2 then .error .keySelect
  else .ok (.xk (arg.extractLsb' 0 2))

/-- The opcode map of rule R46; a reserved opcode is rejected (rule R48). -/
def decodeOp (op arg : BitVec 4) : Except Reserved Instr :=
  match op.toNat with
  | 1 => decodePlain arg .sl
  | 2 => decodePlain arg .sli
  | 3 => decodePlain arg .ml
  | 4 => decodePlain arg .sr
  | 5 => decodePlain arg .sri
  | 6 => decodeXrc arg
  | 7 => decodeXk arg
  | 8 => decodePlain arg .kflip
  | _ => .error .opcode

/-- The micro-operation a UOP word encodes, or why the word is reserved (rules R45 to R48). -/
def decodeUop (w : UopWord) : Except Reserved Instr :=
  if uopZ w = 0#4 then decodeOp (uopOp w) (uopArg w) else .error .zField

/-- The instruction an encoded word stands for, or why the word is reserved. -/
def decode : Encoded → Except Reserved Instr
  | .cmd w => .ok (decodeCmd w)
  | .uop w => decodeUop w

/-- The bits of a table row, numbered as spec/opcode_table.json numbers them, in the format the row's width
selects: up to 16 bits the 12-bit UOP format, else the 193-bit CMD format; none where a bit above the format's
width is set (notes/assumptions/9.md, DESIGN CHOICE). -/
def tableWord (nbits w : Nat) : Option Encoded :=
  if nbits ≤ 16 then
    if w < 2 ^ 12 then some (.uop (BitVec.ofNat 12 w)) else none
  else
    if w < 2 ^ 193 then some (.cmd (BitVec.ofNat 193 w)) else none

/-- The instruction the decoder reads from a table row's bits, none where it refuses. -/
def decodeTableWord (nbits w : Nat) : Option Instr :=
  match tableWord nbits w with
  | none => none
  | some e =>
    match decode e with
    | .ok i => some i
    | .error _ => none

/-! ### The encoder, from the same tables (rules R41, R45, R46, R47) -/

/-- `CMD = mode ‖ k0 ‖ k1 ‖ d` (rule R41). -/
def encodeCmd (mode : Bool) (k0 k1 d : Block) : CmdWord :=
  BitVec.ofBool mode ++ k0 ++ k1 ++ d

/-- `U = op ‖ 0000 ‖ arg` (rule R45). -/
def encodeUop (op arg : BitVec 4) : UopWord :=
  op ++ 0#4 ++ arg

/-- The word of an instruction (rules R41, R45, R46). -/
def encode : Instr → Encoded
  | .enc k0 k1 d => .cmd (encodeCmd false k0 k1 d)
  | .dec k0 k1 d => .cmd (encodeCmd true k0 k1 d)
  | .sl => .uop (encodeUop 0x1#4 0#4)
  | .sli => .uop (encodeUop 0x2#4 0#4)
  | .ml => .uop (encodeUop 0x3#4 0#4)
  | .sr => .uop (encodeUop 0x4#4 0#4)
  | .sri => .uop (encodeUop 0x5#4 0#4)
  | .xrc i => .uop (encodeUop 0x6#4 i)
  | .xk sel => .uop (encodeUop 0x7#4 (sel.setWidth 4))
  | .kflip => .uop (encodeUop 0x8#4 0#4)

end Sys2Proof
end

