-- ==== Sys2Proof/Machine/MicroRom.lean ====
section
/-! DEFINITION. The fixed micro-sequence (rule R104; P5 of 95_test_vectors.md) and the fetch from it. It is a ROM: no
input chooses, skips or reorders a word, and no port can write it (rules R33, R104). -/

namespace Sys2Proof.Machine

/-- UPC 0 and 1: the initial whitening. -/
def romInitial : List UopWord := [0x700#12, 0x600#12]

/-- UPC 2 to 26: the forward rounds 1 to 5. -/
def romForward : List UopWord :=
  [0x100#12, 0x300#12, 0x400#12, 0x601#12, 0x701#12] ++
  [0x100#12, 0x300#12, 0x400#12, 0x602#12, 0x700#12] ++
  [0x100#12, 0x300#12, 0x400#12, 0x603#12, 0x701#12] ++
  [0x100#12, 0x300#12, 0x400#12, 0x604#12, 0x700#12] ++
  [0x100#12, 0x300#12, 0x400#12, 0x605#12, 0x701#12]

/-- UPC 27 to 32: the middle, with the key flip at UPC 30 (rule R106). -/
def romMiddle : List UopWord := [0x100#12, 0x700#12, 0x300#12, 0x800#12, 0x702#12, 0x200#12]

/-- UPC 33 to 57: the backward rounds 6 to 10. -/
def romBackward : List UopWord :=
  [0x700#12, 0x606#12, 0x500#12, 0x300#12, 0x200#12] ++
  [0x701#12, 0x607#12, 0x500#12, 0x300#12, 0x200#12] ++
  [0x700#12, 0x608#12, 0x500#12, 0x300#12, 0x200#12] ++
  [0x701#12, 0x609#12, 0x500#12, 0x300#12, 0x200#12] ++
  [0x700#12, 0x60a#12, 0x500#12, 0x300#12, 0x200#12]

/-- UPC 58: the final whitening. -/
def romFinal : List UopWord := [0x702#12]

/-- The 59 words in UPC order (rule R104). -/
def microRom : List UopWord :=
  romInitial ++ romForward ++ romMiddle ++ romBackward ++ romFinal

/-- The word at a position of the micro-sequence; past its end there is none. -/
def fetchUop (upc : Fin 60) : Option UopWord := microRom[upc.val]?

/-- The first position of the micro-sequence that holds a word. -/
def romPosition (w : UopWord) : Option (Fin 60) :=
  match microRom.findIdx? (fun v => v == w) with
  | none => none
  | some n => if h : n < 60 then some ⟨n, h⟩ else none

end Sys2Proof.Machine
end

