-- ==== Sys2Proof/Machine/Fetch.lean ====
section
/-! DEFINITION. What a step does outside reset: the micro-operation at UPC or the busy edge while BUSY, the presented
command or the hold while IDLE; and how a word is put where the next step finds it. -/

namespace Sys2Proof.Machine

/-- The micro-operation at UPC, fetched, decoded and run, and then UPC ← UPC + 1 (rule R105). A reserved word is
refused (rule R48); past the end of the sequence there is no word, and the step is the busy edge (rule R111). -/
def uopOrBusy (s : State) : Host.Outcome State Fault Refusal :=
  match fetchUop s.upc with
  | none => .next s.busyOrComplete.tick
  | some w =>
    match decodeUop w with
    | .ok i => andThen (exec i s) State.nextUop
    | .error r => .refused (.reservedUop r)

/-- The edge in IDLE without reset: the presented command runs, or the state holds (rules R110, R112). -/
def idleEdge (s : State) : Host.Outcome State Fault Refusal :=
  if s.ports.inValid then andThen (exec (decodeCmd s.ports.cmd) s) State.tick
  else .next s.tick

/-- The command vector on the ports, with in_valid = 1 and rst = 0. -/
def presented (w : CmdWord) : Inputs :=
  ⟨false, true, cmdMode w, cmdK0 w ++ cmdK1 w, cmdData w⟩

/-- No reset at the coming edge. -/
def withoutReset (inputs : List Inputs) : List Inputs :=
  match inputs with
  | [] => []
  | i :: rest => { i with rst := false } :: rest

end Sys2Proof.Machine
end

