-- ==== Sys2Proof/Machine/Step.lean ====
section
/-! DEFINITION. One step of the machine: a rising clock edge or one micro-operation. At an edge the conditions are
tried in the order reset, accept, busy or completion, hold (rule R123). After an accept the 59 micro-operations run,
one a step, before the next edge: how many are done in a cycle is free and not observable (rule R105; U5 of
93_implementation_defined.md; notes/assumptions/7.md). -/

namespace Sys2Proof.Machine

/-- One step (rules R105, R110 to R113, R123, R140). -/
def step (s : State) : Host.Outcome State Fault Refusal :=
  if s.ports.rst then .next s.resetRegs.tick
  else
    match s.phase with
    | .busy => uopOrBusy s
    | .idle => idleEdge s

/-- The state in which the next step runs the instruction of a table row's bits: a command is put on the ports of the
coming edge with the CORE idle; a micro-operation is selected by UPC in the fixed micro-sequence with the CORE busy.
A reserved word stands nowhere in that sequence, and the state stays (notes/assumptions/11.md). -/
def State.withFetchWord (s : State) (nbits w : Nat) : State :=
  match tableWord nbits w with
  | none => s
  | some (.cmd c) => { s with phase := .idle, inputs := presented c :: s.inputs.tail }
  | some (.uop u) =>
    match romPosition u with
    | none => s
    | some p => { s with phase := .busy, upc := p, inputs := withoutReset s.inputs }

end Sys2Proof.Machine
end

