-- ==== Sys2Proof/Machine/Cycle.lean ====
section
/-! DEFINITION. Runs of the step: a number of steps, the steps up to the next rising edge, and one clock cycle with
given port values, which is the unit the host sees (rules R7, R149). -/

namespace Sys2Proof.Machine

/-- `n` steps, stopping at the first fault or refusal. -/
def stepN : Nat → State → Host.Outcome State Fault Refusal
  | 0, s => .next s
  | n + 1, s =>
    match step s with
    | .next s' => stepN n s'
    | .fault r => .fault r
    | .refused r => .refused r

/-- Steps until a rising edge has passed, at most the given number of them: micro-operations run in between. -/
def toEdge : Nat → State → Host.Outcome State Fault Refusal
  | 0, s => .next s
  | n + 1, s =>
    match step s with
    | .next s' => if s'.edges = s.edges then toEdge n s' else .next s'
    | .fault r => .fault r
    | .refused r => .refused r

/-- One clock cycle that ends in a rising edge with the given port values: at most 59 micro-operations and the edge. -/
def cycle (i : Inputs) (s : State) : Host.Outcome State Fault Refusal :=
  toEdge 60 { s with inputs := i :: s.inputs }

/-- Clock cycles with the given port values at their edges, the first first. -/
def cycles : List Inputs → State → Host.Outcome State Fault Refusal
  | [], s => .next s
  | i :: rest, s =>
    match cycle i s with
    | .next s' => cycles rest s'
    | .fault r => .fault r
    | .refused r => .refused r

end Sys2Proof.Machine
end

