-- ==== Sys2Proof/Machine/HostNotation.lean ====
section
/-! DEFINITION. The host-side command notation of rule R49 and the micro-operation notation of rule R50: what each
line drives at the ports and until when, and the text of a micro-operation. The host is outside the CORE, and nothing
in the step depends on this file. -/

namespace Sys2Proof.Machine

/-- One line of the notation (rule R49). -/
inductive HostLine where
  /-- `ENC k0=…, k1=…, d=…` -/
  | enc (k0 k1 d : Block)
  /-- `DEC k0=…, k1=…, d=…`, with the encryption key -/
  | dec (k0 k1 d : Block)
  /-- `RESET` -/
  | reset
  /-- `IDLE n` -/
  | idle (n : Nat)
  /-- `WAITV` -/
  | waitv
  /-- `READ <name>` -/
  | read (name : String)
  /-- `POKE in_valid=1, …` with the values of all input ports -/
  | poke (ports : Inputs)
  deriving DecidableEq, Repr

/-- A host program in progress: the lines left, the CORE, and the host variables read so far, the latest first. -/
structure HostRun where
  lines : List HostLine
  state : State
  vars  : List (String × Block)
  deriving DecidableEq, Repr

/-- The ports with one command presented (rules R41, R49). -/
def commandPorts (mode : Bool) (k0 k1 d : Block) : Inputs := ⟨false, true, mode, k0 ++ k1, d⟩

/-- One cycle of a host program with the given ports and the lines that follow it. -/
def hostCycle (h : HostRun) (ports : Inputs) (after : State → List HostLine) : Host.Outcome HostRun Fault Refusal :=
  match cycle ports h.state with
  | .next s => .next { h with lines := after s, state := s }
  | .fault r => .fault r
  | .refused r => .refused r

/-- A command line holds its ports until an edge with in_ready = 1 accepts them (rule R49). The next edge belongs to the
next line, whatever it drives on in_valid: DESIGN CHOICE, where R49 says in_valid = 0 there and the POKE of P3 in
95_test_vectors.md drives 1 (notes/assumptions/12.md). -/
def hostCommand (h : HostRun) (mode : Bool) (k0 k1 d : Block) (rest : List HostLine) :
    Host.Outcome HostRun Fault Refusal :=
  hostCycle h (commandPorts mode k0 k1 d) fun _ => if h.state.readyAt false then rest else h.lines

/-- One edge, or one line without an edge, of a host program (rule R49). Where R49 names rst or in_valid alone, as for
RESET, IDLE and WAITV, the other input ports are 0, in_valid at a RESET edge among them: DESIGN CHOICE without effect on
the CORE (notes/assumptions/12.md). -/
def hostStep (h : HostRun) : Host.Outcome HostRun Fault Refusal :=
  match h.lines with
  | [] => .next h
  | .enc k0 k1 d :: rest => hostCommand h false k0 k1 d rest
  | .dec k0 k1 d :: rest => hostCommand h true k0 k1 d rest
  | .reset :: rest => hostCycle h { quietPorts with rst := true } fun _ => rest
  | .idle 0 :: rest => .next { h with lines := rest }
  | .idle (n + 1) :: rest => hostCycle h quietPorts fun _ => .idle n :: rest
  | .waitv :: rest => hostCycle h quietPorts fun s => if s.outValid then rest else h.lines
  | .read name :: rest =>
    .next { h with lines := rest, vars := if h.state.outValid then (name, h.state.outData) :: h.vars else h.vars }
  | .poke ports :: rest => hostCycle h ports fun _ => rest

/-- A host program run for at most the given number of edges and edge-less lines. -/
def hostRun : Nat → HostRun → Host.Outcome HostRun Fault Refusal
  | 0, h => .next h
  | n + 1, h =>
    match hostStep h with
    | .next h' => hostRun n h'
    | .fault r => .fault r
    | .refused r => .refused r

/-- The name of a key selector (rule R50). -/
def keyName (sel : BitVec 2) : Option String :=
  if sel = 0#2 then some "K0" else if sel = 1#2 then some "K1" else if sel = 2#2 then some "K1B" else none

/-- The text of a micro-operation (rule R50); a command and a reserved form have none. -/
def uopText : Instr → Option String
  | .enc _ _ _ => none
  | .dec _ _ _ => none
  | .sl => some "SL"
  | .sli => some "SLI"
  | .ml => some "ML"
  | .sr => some "SR"
  | .sri => some "SRI"
  | .xrc i => if i.toNat ≤ 10 then some ("XRC " ++ toString i.toNat) else none
  | .xk sel => (keyName sel).map ("XK " ++ ·)
  | .kflip => some "KFLIP"

/-- The 20 legal micro-operations (rules R46 to R48). -/
def legalUops : List Instr :=
  [.sl, .sli, .ml, .sr, .sri] ++ (List.range 11).map (fun i => .xrc (BitVec.ofNat 4 i)) ++
  [.xk 0#2, .xk 1#2, .xk 2#2, .kflip]

/-- The word of a micro-operation's text (rule R50), none for any other text. -/
def assembleUop (text : String) : Option UopWord :=
  match legalUops.find? (fun i => uopText i == some text) with
  | none => none
  | some i =>
    match encode i with
    | .cmd _ => none
    | .uop w => some w

end Sys2Proof.Machine
end

