-- ==== Sys2Proof/Machine/PowerUp.lean ====
section
/-! DEFINITION. The state at power-up, before the first reset edge (rule R143). -/

namespace Sys2Proof.Machine

/-- An instance with the given tables and latency at power-up: every register, PHASE and OV included, is a draw, and
the tables are ROM (rules R142, R143). The ports are the host's to drive (notes/assumptions/8.md, 14.md). -/
def State.powerUp (tables : Tables) (latency : Latency) : State where
  phase   := if Config.powerUpBusy then .busy else .idle
  cnt     := Config.powerUpCnt
  ov      := Config.powerUpOv
  res     := Config.powerUpRes
  st      := Config.powerUpSt
  k0r     := Config.powerUpK0r
  k1r     := Config.powerUpK1r
  mode    := Config.powerUpMode
  upc     := Config.powerUpUpc.castSucc
  tables  := tables
  latency := latency
  inputs  := []
  edges   := 0

end Sys2Proof.Machine
end

