-- ==== Sys2Proof/Safety.lean ====
section
/-! DEFINITION. The terms the statements use: the invariant of the sequencer, the spec's own edge-by-edge step
function and how this machine simulates it, and when two states cannot be told apart at the ports. -/

namespace Sys2Proof.Machine

/-- While BUSY, CNT is in [1, LATENCY(MODE)] (rule R14) and OV = 0 (rule R109); LATENCY is at least 1 (rule R4). -/
structure Inv (s : State) : Prop where
  latency : s.latency.Lawful
  count   : s.phase = .busy → 1 ≤ s.cnt ∧ s.cnt ≤ latencyOf s.latency s.mode
  valid   : s.phase = .busy → s.ov = false

/-- The result of the command on the ports: Encrypt for in_mode = 0, Decrypt for in_mode = 1 (rules R107, R108). -/
def commandResult (t : Tables) (i : Inputs) : Block :=
  if i.inMode then decrypt t (keyHalf0 i.inKey) (keyHalf1 i.inKey) i.inData
  else encrypt t (keyHalf0 i.inKey) (keyHalf1 i.inKey) i.inData

/-- The mode a level of in_mode selects (rules R13, R43). -/
def modeOf (bit : Bool) : Mode := if bit then .backward else .forward

/-- The combined step function of 43_core.md: one rising edge with the given inputs, keeping the accepted values
while BUSY and applying Core at completion (rules R110 to R113, R140). -/
def specEdge (i : Inputs) (s : State) : State :=
  if i.rst then s.resetRegs
  else match s.phase with
    | .idle =>
      if i.inValid then s.accept (modeOf i.inMode) (keyHalf0 i.inKey) (keyHalf1 i.inKey) i.inData else s
    | .busy =>
      if s.cnt > 1 then { s with cnt := s.cnt - 1 }
      else { s with res := princeCore s.tables s.k0r s.k1r s.st s.mode, ov := true, phase := .idle }

/-- The spec's edge with the model's edge count carried along. -/
def specCycle (i : Inputs) (s : State) : State := { specEdge i s with edges := s.edges + 1 }

/-- How a state of this machine between two edges stands for a state of the spec's step function: the two agree on
all but the data registers and UPC, and while BUSY the machine holds either the accepted values with none of the
micro-sequence run, or Core of the accepted values with all of it run (the two model options of rule R111). -/
structure Simulates (spec impl : State) : Prop where
  phase   : impl.phase = spec.phase
  ov      : impl.ov = spec.ov
  res     : impl.res = spec.res
  tables  : impl.tables = spec.tables
  latency : impl.latency = spec.latency
  edges   : impl.edges = spec.edges
  busy    : spec.phase = .busy → impl.cnt = spec.cnt ∧ impl.mode = spec.mode ∧
    ((impl.upc = 0 ∧ impl.st = spec.st ∧ impl.k0r = spec.k0r ∧ impl.k1r = spec.k1r) ∨
     (impl.upc.val = 59 ∧ impl.st = princeCore spec.tables spec.k0r spec.k1r spec.st spec.mode))

/-- Two states that differ only in what no command reads before it is loaded and no port shows: RES while OV = 0, and
ST, K0R, K1R, MODE, UPC and CNT while IDLE (rules R21, R22); and in the model's count of edges, so that the free values
of the two need not be the same. -/
structure Indistinguishable (s u : State) : Prop where
  phase   : s.phase = u.phase
  ov      : s.ov = u.ov
  res     : s.ov = true → s.res = u.res
  tables  : s.tables = u.tables
  latency : s.latency = u.latency
  inputs  : s.inputs = u.inputs
  busy    : s.phase = .busy →
    s.st = u.st ∧ s.k0r = u.k0r ∧ s.k1r = u.k1r ∧ s.mode = u.mode ∧ s.upc = u.upc ∧ s.cnt = u.cnt

/-- What the output ports show at an edge with the given level of rst: in_ready, out_valid, and out_data while
out_valid = 1 (rules R16, R21; U1 of 93_implementation_defined.md). -/
def outputs (s : State) (rst : Bool) : Bool × Bool × Option Block :=
  (s.readyAt rst, s.outValid, if s.outValid then some s.outData else none)

/-- Micro-operations run one after another by their meanings, without the sequencer. -/
def runUops : List Instr → State → Host.Outcome State Fault Refusal
  | [], s => .next s
  | i :: rest, s =>
    match exec i s with
    | .next s' => runUops rest s'
    | .fault r => .fault r
    | .refused r => .refused r

/-- The ST an outcome leaves, none where it is no next state. -/
def stOf : Host.Outcome State Fault Refusal → Option Block
  | .next s => some s.st
  | .fault _ => none
  | .refused _ => none

/-- The instructions of UOP words, the reserved words left out. -/
def instrsOf (words : List UopWord) : List Instr :=
  words.filterMap fun w =>
    match decodeUop w with
    | .ok i => some i
    | .error _ => none

/-- The micro-sequence with KFLIP taken out and put back after the first n of the other micro-operations: n = 30 is its
place in the ROM (rule R106). -/
def sequenceWithKflipAt (n : Nat) : List Instr :=
  let others := (instrsOf microRom).filter (· ≠ .kflip)
  others.take n ++ .kflip :: others.drop n

/-- No reset at any of the given edges. -/
def NoReset (is : List Inputs) : Prop := ∀ i ∈ is, i.rst = false

/-- No reset and no command at any of the given edges. -/
def Quiet (is : List Inputs) : Prop := ∀ i ∈ is, i.rst = false ∧ i.inValid = false

end Sys2Proof.Machine
end

