-- ==== Sys2Proof/Certificates/Slice0/Obligations.lean ====
section
/-! DEFINITION. The statements for the provers. Each is about every state, every table and every latency unless it
names the default tables; statements about ST, K0R, K1R, UPC and CNT are about the model's inside, which no port
shows (rule R21; D15 of 92_eei_decisions.md). -/

open Sys2Proof Sys2Proof.Machine

/-! ### Encoding -/

/-- Rule R43: CMD[192] = 0 selects ENC and CMD[192] = 1 selects DEC, the operands are the fields of rule R42, and
every command vector is legal. -/
def Obligations.ModeBitSelectsCommand : Prop :=
  ∀ w : CmdWord,
    (w.getLsbD 192 = false →
      decode (.cmd w) = .ok (.enc (w.extractLsb 191 128) (w.extractLsb 127 64) (w.extractLsb 63 0))) ∧
    (w.getLsbD 192 = true →
      decode (.cmd w) = .ok (.dec (w.extractLsb 191 128) (w.extractLsb 127 64) (w.extractLsb 63 0)))

/-- A few words written out bit by bit from rules R41, R45, R46 and R47 decode to the instructions they stand for. -/
def Obligations.WordsWrittenOutDecode : Prop :=
  decode (.cmd (0b0#1 ++ 0x0123456789abcdef#64 ++ 0xfedcba9876543210#64 ++ 0x00000000000000ff#64)) =
    .ok (.enc 0x0123456789abcdef#64 0xfedcba9876543210#64 0x00000000000000ff#64) ∧
  decode (.cmd (0b1#1 ++ 0x0123456789abcdef#64 ++ 0xfedcba9876543210#64 ++ 0x00000000000000ff#64)) =
    .ok (.dec 0x0123456789abcdef#64 0xfedcba9876543210#64 0x00000000000000ff#64) ∧
  decode (.uop 0b000100000000#12) = .ok .sl ∧ decode (.uop 0b001000000000#12) = .ok .sli ∧
  decode (.uop 0b001100000000#12) = .ok .ml ∧ decode (.uop 0b010000000000#12) = .ok .sr ∧
  decode (.uop 0b010100000000#12) = .ok .sri ∧ decode (.uop 0b011000001010#12) = .ok (.xrc 10#4) ∧
  decode (.uop 0b011100000010#12) = .ok (.xk 2#2) ∧ decode (.uop 0b100000000000#12) = .ok .kflip

/-- Rules R46 and R48: the opcode map with the operand forms of XRC and XK, and exactly which words are reserved; no
word of the fixed micro-sequence is. -/
def Obligations.UopWordsDecodeByOpcodeMap : Prop :=
  (decode (.uop 0x100#12) = .ok .sl ∧ decode (.uop 0x200#12) = .ok .sli ∧ decode (.uop 0x300#12) = .ok .ml ∧
    decode (.uop 0x400#12) = .ok .sr ∧ decode (.uop 0x500#12) = .ok .sri ∧ decode (.uop 0x800#12) = .ok .kflip) ∧
  (∀ i : BitVec 4, i.toNat ≤ 10 → decode (.uop (0x60#8 ++ i)) = .ok (.xrc i)) ∧
  (∀ sel : BitVec 2, sel ≠ 3#2 → decode (.uop (0b0111000000#10 ++ sel)) = .ok (.xk sel)) ∧
  (∀ w : UopWord, (∃ r, decode (.uop w) = .error r) ↔
    (w.extractLsb 11 8).toNat = 0 ∨ 9 ≤ (w.extractLsb 11 8).toNat ∨ w.extractLsb 7 4 ≠ 0#4 ∨
    ((w.extractLsb 11 8).toNat ∈ [1, 2, 3, 4, 5, 8] ∧ w.extractLsb 3 0 ≠ 0#4) ∨
    ((w.extractLsb 11 8).toNat = 6 ∧ 11 ≤ (w.extractLsb 3 0).toNat) ∨
    ((w.extractLsb 11 8).toNat = 7 ∧ (w.extractLsb 1 0 = 3#2 ∨ w.extractLsb 3 2 ≠ 0#2))) ∧
  (∀ w ∈ microRom, ∃ i, decode (.uop w) = .ok i)

/-- Rule R50: the text of a micro-operation and the word it stands for, the rule's three examples among them. -/
def Obligations.AssemblyTextEncodes : Prop :=
  (assembleUop "SL" = some 0x100#12 ∧ assembleUop "SLI" = some 0x200#12 ∧ assembleUop "ML" = some 0x300#12 ∧
    assembleUop "SR" = some 0x400#12 ∧ assembleUop "SRI" = some 0x500#12 ∧ assembleUop "KFLIP" = some 0x800#12) ∧
  (assembleUop "XK K0" = some 0x700#12 ∧ assembleUop "XK K1" = some 0x701#12 ∧
    assembleUop "XK K1B" = some 0x702#12) ∧
  (assembleUop "XRC 7" = some 0x607#12 ∧ assembleUop "XRC 11" = none) ∧
  (∀ i : Fin 11, assembleUop ("XRC " ++ toString i.val) = some (BitVec.ofNat 12 (0x600 + i.val)))

/-- Decoding the encoded word of any well-formed instruction gives it back, with every operand value the encoding
admits (rules R41 to R47). -/
def Obligations.DecodeAfterEncode : Prop :=
  ∀ i : Instr, i.WellFormed → decode (encode i) = .ok i

/-- Every word that decodes is the encoded word of the well-formed instruction it decodes to, so no two words have one
meaning (rules R41 to R48). -/
def Obligations.EncodeAfterDecode : Prop :=
  ∀ (e : Encoded) (i : Instr), decode e = .ok i → i.WellFormed ∧ encode i = e

/-! ### Block and key -/

/-- Rule R6: nibble i is the field [63-4i : 60-4i], and the 16 nibbles in order, nibble 0 the most significant, are
the block. -/
def Obligations.NibbleViewIsTheBlock : Prop :=
  (∀ (x : Block) (i : Fin 16) (j : Fin 4), (nib x i).getLsbD j.val = x.getLsbD (60 - 4 * i.val + j.val)) ∧
  (∀ x : Block, fromNibbles (nib x) = x) ∧
  (∀ f : Fin 16 → Nibble, (fromNibbles f).toNat = Fin.foldl 16 (fun acc i => 16 * acc + (f i).toNat) 0)

/-- Rule R61: a written nibble reads back, writing a nibble's own value changes nothing, every bit outside the field
stays, and the rule's example. -/
def Obligations.NibbleWriteLaws : Prop :=
  (∀ (b : Block) (i : Fin 16) (v : Nibble), nib (setNib b i v) i = v) ∧
  (∀ (b : Block) (i : Fin 16), setNib b i (nib b i) = b) ∧
  (∀ (b : Block) (i : Fin 16) (v : Nibble) (j : Nat), (j < 60 - 4 * i.val ∨ 64 - 4 * i.val ≤ j) →
    (setNib b i v).getLsbD j = b.getLsbD j) ∧
  setNib 0x0123456789abcdef#64 1 0xf#4 = 0x0f23456789abcdef#64

/-- Rule R65, less its clause marked as derived (that is `DecryptionKeyTwice`): the new k0 is the old k1 ⊕ BETA, the
new k1 is the old k0 ⊕ ALPHA; the transform is a bijection of 128-bit keys; and the rule's example with the default
constants. -/
def Obligations.DecryptionKeyTransform : Prop :=
  (∀ (t : Tables) (k0 k1 : Block), decKey t k0 k1 = (k1 ^^^ t.beta, k0 ^^^ t.alpha)) ∧
  (∀ t : Tables, Function.Bijective fun k : Block × Block => decKey t k.1 k.2) ∧
  decKey defaultTables 0x0123456789abcdef#64 0xfedcba9876543210#64 =
    (0xc1586f2dc3133b07#64, 0xc18f6cd040d79d32#64)

/-- The decryption-key transform applied twice XORs ALPHA ⊕ BETA into both halves, so it is the identity only where
ALPHA = BETA; the spec marks this as derived. With the default constants it is not. -/
def Obligations.DecryptionKeyTwice : Prop :=
  (∀ (t : Tables) (k0 k1 : Block), decKey t (decKey t k0 k1).1 (decKey t k0 k1).2 =
    (k0 ^^^ t.alpha ^^^ t.beta, k1 ^^^ t.alpha ^^^ t.beta)) ∧
  (∀ (t : Tables) (k0 k1 : Block), decKey t (decKey t k0 k1).1 (decKey t k0 k1).2 = (k0, k1) ↔ t.alpha = t.beta) ∧
  defaultTables.alpha ≠ defaultTables.beta

/-! ### The micro-operations: result and frame

Each answers a next state for every state; the state it answers differs in the named registers alone. -/

/-- Rule R71 (SL): its word; every nibble of ST becomes the S-box entry of that nibble and nothing else changes; with
the default table no nibble value is fixed; and the rule's example. -/
def Obligations.SlSubstitutesEachNibble : Prop :=
  decode (.uop 0x100#12) = .ok .sl ∧
  (∀ s : State, ∃ x : Block, exec .sl s = .next { s with st := x } ∧
    ∀ i : Fin 16, (nib x i).toFin = s.tables.sbox.get (nib s.st i).toFin) ∧
  (∀ n : Fin 16, defaultTables.sbox.get n ≠ n) ∧
  sLayer defaultTables 0x0123456789abcdef#64 = 0xbf32ac916780e5d4#64

/-- Rule R72 (SLI), less its clause marked as derived (that is `LayersInvertEachOther`): its word, result, frame and
example. -/
def Obligations.SliSubstitutesEachNibble : Prop :=
  decode (.uop 0x200#12) = .ok .sli ∧
  (∀ s : State, ∃ x : Block, exec .sli s = .next { s with st := x } ∧
    ∀ i : Fin 16, (nib x i).toFin = s.tables.sboxInv.get (nib s.st i).toFin) ∧
  sLayerInv defaultTables 0x0123456789abcdef#64 = 0xb732fd89a6405ec1#64

/-- Rule R74 (SR): its word; output nibble i is input nibble SR[i] and nothing else changes; a block of 16 equal
nibbles is unchanged; and the rule's example. -/
def Obligations.SrGathersNibbles : Prop :=
  decode (.uop 0x400#12) = .ok .sr ∧
  (∀ s : State, ∃ x : Block, exec .sr s = .next { s with st := x } ∧
    ∀ i : Fin 16, nib x i = nib s.st (s.tables.sr.get i)) ∧
  (∀ s : State, (∀ i j : Fin 16, nib s.st i = nib s.st j) → exec .sr s = .next s) ∧
  shiftRow defaultTables 0x0123456789abcdef#64 = 0x05af49e38d27c16b#64

/-- Rule R75 (SRI), less its clause marked as derived (that is `LayersInvertEachOther`): its word, result, frame and
example. -/
def Obligations.SriGathersNibbles : Prop :=
  decode (.uop 0x500#12) = .ok .sri ∧
  (∀ s : State, ∃ x : Block, exec .sri s = .next { s with st := x } ∧
    ∀ i : Fin 16, nib x i = nib s.st (s.tables.srInv.get i)) ∧
  shiftRowInv defaultTables 0x0123456789abcdef#64 = 0x0da741eb852fc963#64

/-- Rules R76, R77 and R78 (ML), less the clause of R78 marked as derived (that is `MLayerBitSums`): the patterns are
7, 11, 13, 14; with them Mk clears bit 3 - k; its word; output nibble i of
group k is the XOR over j of MPAT[c(i,j)] & n_j with c0 on groups 0 and 3 and c1 on groups 1 and 2, and nothing else
changes; the all-zero and all-ones blocks are fixed; and the rule's examples. -/
def Obligations.MlMultipliesEachGroup : Prop :=
  (defaultTables.mpat = #v[7#4, 11#4, 13#4, 14#4]) ∧
  (∀ t : Tables, t.StandardPatterns → ∀ (k : Fin 4) (n : Nibble) (b : Fin 4),
    (t.mpat.get k &&& n).getLsbD b.val = (decide (b.val ≠ 3 - k.val) && n.getLsbD b.val)) ∧
  decode (.uop 0x300#12) = .ok .ml ∧
  (∀ s : State, ∃ x : Block, exec .ml s = .next { s with st := x } ∧
    ∀ (k i : Fin 4), nib x ⟨4 * k.val + i.val, by omega⟩ =
      Fin.foldl 4 (fun acc j => acc ^^^
        (s.tables.mpat.get ⟨(i.val + j.val + if k.val = 1 ∨ k.val = 2 then 1 else 0) % 4, Nat.mod_lt _ (by decide)⟩ &&&
          nib s.st ⟨4 * k.val + j.val, by omega⟩)) 0#4) ∧
  (∀ t : Tables, t.StandardPatterns → mLayer t 0#64 = 0#64 ∧ mLayer t (BitVec.allOnes 64) = BitVec.allOnes 64) ∧
  mLayer defaultTables 0x8000000000000000#64 = 0x0888000000000000#64 ∧
  mLayer defaultTables 0x0123456789abcdef#64 = 0x3012456789abfcde#64

/-- Bit b of output nibble i of a group is the XOR of bit b of the group's input nibbles, all but the one whose pattern
clears bit b; the spec marks this as derived. -/
def Obligations.MLayerBitSums : Prop :=
  ∀ (t : Tables) (x : Block), t.StandardPatterns → ∀ (k i b : Fin 4),
    (nib (mLayer t x) ⟨4 * k.val + i.val, by omega⟩).getLsbD b.val =
      Fin.foldl 4 (fun acc j => acc ^^
        (decide ((i.val + j.val + if k.val = 1 ∨ k.val = 2 then 1 else 0) % 4 ≠ 3 - b.val) &&
          (nib x ⟨4 * k.val + j.val, by omega⟩).getLsbD b.val)) false

/-- The M-layer with the four patterns is GF(2)-linear and its own inverse; the spec marks this as derived from its
rules R76 to R78 and takes it as no axiom (C3 of 90_conflicts.md). -/
def Obligations.MLayerIsALinearInvolution : Prop :=
  ∀ t : Tables, t.StandardPatterns →
    (∀ x y : Block, mLayer t (x ^^^ y) = mLayer t x ^^^ mLayer t y) ∧ (∀ x : Block, mLayer t (mLayer t x) = x)

/-- SL and SLI undo each other for mutually inverse S-boxes, SR and SRI for mutually inverse shift tables: the clauses
that the rules of SLI and SRI mark as derived, as runs of the two micro-operations. -/
def Obligations.LayersInvertEachOther : Prop :=
  ∀ s : State,
    (s.tables.SboxInverse → runUops [.sl, .sli] s = .next s ∧ runUops [.sli, .sl] s = .next s) ∧
    (s.tables.ShiftInverse → runUops [.sr, .sri] s = .next s ∧ runUops [.sri, .sr] s = .next s)

/-- Rule R80 (XRC i): for i of 0 to 10, ST ← ST ⊕ RC[i] and nothing else changes; XRC 0 with RC0 = 0 changes nothing;
11 to 15 are refused; its words; and the rule's example. -/
def Obligations.XrcInjectsTheConstant : Prop :=
  (∀ (i : BitVec 4) (h : i.toNat < 11) (s : State),
    decode (.uop (0x600#12 ||| i.setWidth 12)) = .ok (.xrc i) ∧
    exec (.xrc i) s = .next { s with st := s.st ^^^ s.tables.rc.get ⟨i.toNat, h⟩ }) ∧
  (∀ s : State, s.tables.rc.get 0 = 0#64 → exec (.xrc 0#4) s = .next s) ∧
  (∀ (i : BitVec 4) (s : State), 11 ≤ i.toNat → exec (.xrc i) s = .refused (.reservedUop .rcIndex)) ∧
  0xbbbbbbbbbbbbbbbb#64 ^^^ defaultTables.rc.get 1 = 0xa8a23195b8cbc8ff#64

/-- Rule R81 (XK sel): ST ← ST ⊕ K0R, K1R or K1R ⊕ BETA and nothing else changes; with K0R = 0, XK K0 changes
nothing; the selector 11 is refused; its words. -/
def Obligations.XkWhitensWithTheKey : Prop :=
  (∀ s : State,
    exec (.xk 0#2) s = .next { s with st := s.st ^^^ s.k0r } ∧
    exec (.xk 1#2) s = .next { s with st := s.st ^^^ s.k1r } ∧
    exec (.xk 2#2) s = .next { s with st := s.st ^^^ (s.k1r ^^^ s.tables.beta) } ∧
    exec (.xk 3#2) s = .refused (.reservedUop .keySelect)) ∧
  (∀ s : State, s.k0r = 0#64 → exec (.xk 0#2) s = .next s) ∧
  (∀ s : State, s.k0r = 0x0123456789abcdef#64 → s.st = 0#64 →
    exec (.xk 0#2) s = .next { s with st := 0x0123456789abcdef#64 }) ∧
  (∀ sel : BitVec 2, sel ≠ 3#2 → decode (.uop (0x700#12 ||| sel.setWidth 12)) = .ok (.xk sel))

/-- Rule R82 (KFLIP): with MODE = 1 both working keys are XORed with ALPHA ⊕ BETA and nothing else changes; with
MODE = 0 nothing changes; its word; and the rule's example with the default constants. -/
def Obligations.KflipFlipsBothKeys : Prop :=
  decode (.uop 0x800#12) = .ok .kflip ∧
  (∀ s : State, s.mode = .backward → exec .kflip s =
    .next { s with k0r := s.k0r ^^^ (s.tables.alpha ^^^ s.tables.beta),
                   k1r := s.k1r ^^^ (s.tables.alpha ^^^ s.tables.beta) }) ∧
  (∀ s : State, s.mode = .forward → exec .kflip s = .next s) ∧
  (∀ s : State, s.mode = .backward → s.tables = defaultTables → s.k0r = 0#64 → s.k1r = 0#64 →
    exec .kflip s = .next { s with k0r := 0xff28fc027c3b59ca#64, k1r := 0xff28fc027c3b59ca#64 })

/-- Placing KFLIP just before the middle ML gives the same state as just after it, from every state: the clause of the
rule on KFLIP's placement that the spec marks as derived. -/
def Obligations.KflipCommutesWithMl : Prop :=
  ∀ s : State, runUops [.ml, .kflip] s = runUops [.kflip, .ml] s

/-- Vector V-KF of 95_test_vectors.md with the default tables: the decryption of its block by the micro-sequence, and
by the sequence with KFLIP moved to the four other places the vector lists or left out. -/
def Obligations.KflipPlacementVector : Prop :=
  ∀ s : State, s.tables = defaultTables → s.mode = .backward → s.st = 0x603cd95fa72a8704#64 →
    s.k0r = 0xc1586f2dc3133b07#64 → s.k1r = 0xc18f6cd040d79d32#64 →
    let before := instrsOf (microRom.take 27)
    let after := instrsOf (microRom.drop 33)
    stOf (runUops (before ++ [.sl, .xk 0#2, .ml, .kflip, .xk 2#2, .sli] ++ after) s) = some 0x0123456789abcdef#64 ∧
    stOf (runUops (before ++ [.sl, .xk 0#2, .kflip, .ml, .xk 2#2, .sli] ++ after) s) = some 0x0123456789abcdef#64 ∧
    stOf (runUops (before ++ [.sl, .kflip, .xk 0#2, .ml, .xk 2#2, .sli] ++ after) s) = some 0x31184eea80da4cd0#64 ∧
    stOf (runUops (before ++ [.sl, .xk 0#2, .ml, .xk 2#2, .kflip, .sli] ++ after) s) = some 0x89915a0c8362ec06#64 ∧
    stOf (runUops (.kflip :: before ++ [.sl, .xk 0#2, .ml, .xk 2#2, .sli] ++ after) s) = some 0x37537496ae8ae826#64 ∧
    stOf (runUops (before ++ [.sl, .xk 0#2, .ml, .xk 2#2, .sli] ++ after) s) = some 0x39d892bde4742674#64

/-- No micro-operation writes PHASE, CNT, OV, RES, MODE, UPC, the tables or the ports; and a micro-operation that
changes K0R or K1R is KFLIP in decryption mode. -/
def Obligations.UopsWriteOnlyCipherRegisters : Prop :=
  ∀ (i : Instr) (w : UopWord) (s t : State), encode i = .uop w → exec i s = .next t →
    t = { s with st := t.st, k0r := t.k0r, k1r := t.k1r } ∧
    ((t.k0r ≠ s.k0r ∨ t.k1r ≠ s.k1r) → i = .kflip ∧ s.mode = .backward)

/-! ### Rounds and the pipeline -/

/-- Rules R92 and R93: the key selector and the constant of every round, the initial whitening, the six words of the
middle and the final whitening, read off the micro-sequence, with the key value that each of the three selectors reads;
each constant is injected exactly once, so the middle and the final whitening inject none. -/
def Obligations.RoundScheduleInTheRom : Prop :=
  (∀ i : Fin 5, microRom[5 * (i.val + 1)]? = some (BitVec.ofNat 12 (0x600 + (i.val + 1))) ∧
    microRom[5 * (i.val + 1) + 1]? = some (if (i.val + 1) % 2 = 1 then 0x701#12 else 0x700#12)) ∧
  (∀ i : Fin 5, microRom[5 * (i.val + 6) + 4]? = some (BitVec.ofNat 12 (0x600 + (i.val + 6))) ∧
    microRom[5 * (i.val + 6) + 3]? = some (if (i.val + 6) % 2 = 1 then 0x701#12 else 0x700#12)) ∧
  (microRom[0]? = some 0x700#12 ∧ microRom[1]? = some 0x600#12) ∧
  ((microRom.drop 27).take 6 = [0x100#12, 0x700#12, 0x300#12, 0x800#12, 0x702#12, 0x200#12] ∧
    microRom[58]? = some 0x702#12 ∧ microRom.length = 59) ∧
  (∀ i : Fin 11, microRom.count (BitVec.ofNat 12 (0x600 + i.val)) = 1 ∧
    decode (.uop (BitVec.ofNat 12 (0x600 + i.val))) = .ok (.xrc (BitVec.ofNat 4 i.val))) ∧
  (decode (.uop 0x700#12) = .ok (.xk 0#2) ∧ decode (.uop 0x701#12) = .ok (.xk 1#2) ∧
    decode (.uop 0x702#12) = .ok (.xk 2#2)) ∧
  (∀ s : State, exec (.xk 0#2) s = .next { s with st := s.st ^^^ s.k0r } ∧
    exec (.xk 1#2) s = .next { s with st := s.st ^^^ s.k1r } ∧
    exec (.xk 2#2) s = .next { s with st := s.st ^^^ (s.k1r ^^^ s.tables.beta) })

/-- The forward round as a function, its two XORs in either order; the five micro-operations at its place in the sequence
compute it with the key and constant of its round (rule R90), changing ST and UPC alone; and the rule's example. That
they are five steps with no edge in between, so that CNT, the ports and the edge count stay, is the model's choice (log
entry 7). -/
def Obligations.ForwardRoundByItsUops : Prop :=
  (∀ (t : Tables) (x k rc : Block), fwdRound t x k rc = shiftRow t (mLayer t (sLayer t x)) ^^^ rc ^^^ k ∧
    fwdRound t x k rc = shiftRow t (mLayer t (sLayer t x)) ^^^ k ^^^ rc) ∧
  (∀ (s : State) (i : Fin 5), s.phase = .busy → s.ports.rst = false → s.upc.val = 5 * i.val + 2 →
    ∃ t, stepN 5 s = .next t ∧ t.upc.val = 5 * i.val + 7 ∧
      t = { s with upc := t.upc,
                   st := fwdRound s.tables s.st (if (i.val + 1) % 2 = 1 then s.k1r else s.k0r)
                     (s.tables.rc.get ⟨i.val + 1, by omega⟩) }) ∧
  fwdRound defaultTables 0#64 0#64 (defaultTables.rc.get 1) = 0xa8a23195b8cbc8ff#64

/-- The inverse round as a function, with ML itself in it; the five micro-operations at its place in the sequence compute
it with the key and constant of its round (rule R91), changing ST and UPC alone; and the rule's example. That they are
five steps with no edge in between, so that CNT, the ports and the edge count stay, is the model's choice (log entry 7). -/
def Obligations.InverseRoundByItsUops : Prop :=
  (∀ (t : Tables) (x k rc : Block), invRound t x k rc = sLayerInv t (mLayer t (shiftRowInv t (x ^^^ k ^^^ rc)))) ∧
  (∀ (s : State) (i : Fin 5), s.phase = .busy → s.ports.rst = false → s.upc.val = 5 * i.val + 33 →
    ∃ t, stepN 5 s = .next t ∧ t.upc.val = 5 * i.val + 38 ∧
      t = { s with upc := t.upc,
                   st := invRound s.tables s.st (if (i.val + 6) % 2 = 1 then s.k1r else s.k0r)
                     (s.tables.rc.get ⟨i.val + 6, by omega⟩) }) ∧
  invRound defaultTables 0xa8a23195b8cbc8ff#64 0#64 (defaultTables.rc.get 1) = 0#64

/-- The six micro-operations of the middle, whitening with the unflipped K0R before ML and with the flipped K1R after it,
compute the middle's state and keys (rule R97), changing ST, K0R, K1R and UPC alone; with KFLIP anywhere before the
middle XK K0 or anywhere after the middle XK K1B the round trip breaks, for a key and block that do not depend on the
place, with the default tables; and the rule's example. That the six are steps with no edge in between, so that CNT, the
ports and the edge count stay, is the model's choice (log entry 7). -/
def Obligations.MiddleByItsUops : Prop :=
  (∀ s : State, s.phase = .busy → s.ports.rst = false → s.upc.val = 27 →
    ∃ t, stepN 6 s = .next t ∧ t.upc.val = 33 ∧
      t = { s with upc := t.upc, st := t.st, k0r := t.k0r, k1r := t.k1r } ∧
      (s.mode = .backward → t.k0r = s.k0r ^^^ s.tables.alpha ^^^ s.tables.beta ∧
        t.k1r = s.k1r ^^^ s.tables.alpha ^^^ s.tables.beta) ∧
      (s.mode = .forward → t.k0r = s.k0r ∧ t.k1r = s.k1r) ∧
      t.st = sLayerInv s.tables (mLayer s.tables (sLayer s.tables s.st ^^^ s.k0r) ^^^ (t.k1r ^^^ s.tables.beta)) ∧
      (t.st, t.k0r, t.k1r) = mid s.tables s.st s.k0r s.k1r s.mode) ∧
  (∃ (s : State) (k0 k1 p : Block), s.tables = defaultTables ∧
    ∀ n : Fin 59, n.val ≤ 28 ∨ 31 ≤ n.val →
      stOf (runUops (sequenceWithKflipAt n.val) (s.accept .backward k0 k1 (encrypt s.tables k0 k1 p))) ≠ some p) ∧
  mid defaultTables 0x2390d7a4fd491ee9#64 0#64 0#64 .forward = (0xe69c94c22f45df8b#64, 0#64, 0#64)

/-- Rules R90, R91 and R97: the forward round, the inverse round and the middle as functions and as their expansions
into micro-operations, run by their meanings without the sequencer, changing the registers named alone; the forward
round's two XORs in either order; with KFLIP anywhere before the middle XK K0 or anywhere after the middle XK K1B the
round trip breaks, with the default tables; and the rules' examples. -/
def Obligations.RoundsByTheirExpansions : Prop :=
  (∀ (t : Tables) (x k rc : Block), fwdRound t x k rc = shiftRow t (mLayer t (sLayer t x)) ^^^ rc ^^^ k ∧
    fwdRound t x k rc = shiftRow t (mLayer t (sLayer t x)) ^^^ k ^^^ rc ∧
    invRound t x k rc = sLayerInv t (mLayer t (shiftRowInv t (x ^^^ k ^^^ rc)))) ∧
  (∀ (s : State) (i : Fin 11),
    let sel : BitVec 2 := if i.val % 2 = 1 then 1#2 else 0#2
    let key : Block := if i.val % 2 = 1 then s.k1r else s.k0r
    runUops [.sl, .ml, .sr, .xrc (BitVec.ofNat 4 i.val), .xk sel] s =
      .next { s with st := fwdRound s.tables s.st key (s.tables.rc.get i) } ∧
    runUops [.xk sel, .xrc (BitVec.ofNat 4 i.val), .sri, .ml, .sli] s =
      .next { s with st := invRound s.tables s.st key (s.tables.rc.get i) }) ∧
  (∀ s : State,
    let k0 := if s.mode = .backward then s.k0r ^^^ s.tables.alpha ^^^ s.tables.beta else s.k0r
    let k1 := if s.mode = .backward then s.k1r ^^^ s.tables.alpha ^^^ s.tables.beta else s.k1r
    let x := sLayerInv s.tables (mLayer s.tables (sLayer s.tables s.st ^^^ s.k0r) ^^^ (k1 ^^^ s.tables.beta))
    mid s.tables s.st s.k0r s.k1r s.mode = (x, k0, k1) ∧
    runUops [.sl, .xk 0#2, .ml, .kflip, .xk 2#2, .sli] s = .next { s with st := x, k0r := k0, k1r := k1 }) ∧
  (∃ (s : State) (k0 k1 p : Block), s.tables = defaultTables ∧
    ∀ n : Fin 59, n.val ≤ 28 ∨ 31 ≤ n.val →
      stOf (runUops (sequenceWithKflipAt n.val) (s.accept .backward k0 k1 (encrypt s.tables k0 k1 p))) ≠ some p) ∧
  fwdRound defaultTables 0#64 0#64 (defaultTables.rc.get 1) = 0xa8a23195b8cbc8ff#64 ∧
  invRound defaultTables 0xa8a23195b8cbc8ff#64 0#64 (defaultTables.rc.get 1) = 0#64 ∧
  mid defaultTables 0x2390d7a4fd491ee9#64 0#64 0#64 .forward = (0xe69c94c22f45df8b#64, 0#64, 0#64)

/-- Rules R100, R101 and R102: Core written out round by round, Encrypt and Decrypt by it, and the rule's example with
the default tables. -/
def Obligations.CoreIsTheTwelveRoundPipeline : Prop :=
  (∀ (t : Tables) (k0 k1 x : Block) (mode : Mode),
    let whitened := x ^^^ k0 ^^^ t.rc.get 0
    let r1 := fwdRound t whitened k1 (t.rc.get 1)
    let r2 := fwdRound t r1 k0 (t.rc.get 2)
    let r3 := fwdRound t r2 k1 (t.rc.get 3)
    let r4 := fwdRound t r3 k0 (t.rc.get 4)
    let r5 := fwdRound t r4 k1 (t.rc.get 5)
    let j0 := if mode = .backward then k0 ^^^ (t.alpha ^^^ t.beta) else k0
    let j1 := if mode = .backward then k1 ^^^ (t.alpha ^^^ t.beta) else k1
    let m := sLayerInv t (mLayer t (sLayer t r5 ^^^ k0) ^^^ (j1 ^^^ t.beta))
    let r6 := invRound t m j0 (t.rc.get 6)
    let r7 := invRound t r6 j1 (t.rc.get 7)
    let r8 := invRound t r7 j0 (t.rc.get 8)
    let r9 := invRound t r8 j1 (t.rc.get 9)
    let r10 := invRound t r9 j0 (t.rc.get 10)
    princeCore t k0 k1 x mode = r10 ^^^ (j1 ^^^ t.beta)) ∧
  (∀ (t : Tables) (k0 k1 x : Block), encrypt t k0 k1 x = princeCore t k0 k1 x .forward ∧
    decrypt t k0 k1 x = princeCore t (k1 ^^^ t.beta) (k0 ^^^ t.alpha) x .backward) ∧
  princeCore defaultTables 0#64 0#64 0#64 .forward = 0x0125fc7359441690#64

/-- The inverse round undoes the forward round and the other way, for every lawful table, key and constant; the spec
marks this as derived. -/
def Obligations.RoundsInvertEachOther : Prop :=
  ∀ (t : Tables) (x k rc : Block), t.Lawful →
    invRound t (fwdRound t x k rc) k rc = x ∧ fwdRound t (invRound t x k rc) k rc = x

/-- The 59 micro-operations, run by the step from UPC = 0, leave Core of the loaded values in ST, whatever the
values, tables and mode; the spec marks this as derived. PHASE, CNT, OV, RES, MODE, the ports and the edge count stay
over these steps: no edge falls between them, which is the model's choice (log entry 7). -/
def Obligations.MicroSequenceComputesCore : Prop :=
  ∀ s : State, s.phase = .busy → s.ports.rst = false → s.upc.val = 0 →
    ∃ t, stepN 59 s = .next t ∧ t.upc.val = 59 ∧ t.st = princeCore s.tables s.k0r s.k1r s.st s.mode ∧
      t = { s with upc := t.upc, st := t.st, k0r := t.k0r, k1r := t.k1r }

/-- Decrypt undoes Encrypt and Encrypt undoes Decrypt, for every key and block and every lawful table: the source's
round trip (S1 of 95_test_vectors.md), which the spec marks as derived for every lawful table. -/
def Obligations.DecryptInvertsEncrypt : Prop :=
  ∀ (t : Tables) (k0 k1 x : Block), t.Lawful →
    decrypt t k0 k1 (encrypt t k0 k1 x) = x ∧ encrypt t k0 k1 (decrypt t k0 k1 x) = x

/-! ### Commands and the handshake -/

/-- Rule R107 (ENC): its encoding; in a ready CORE it loads MODE, K0R, K1R and ST and clears OV, as the accept step says, and after
LATENCY(ENC) edges without reset, whatever commands are presented meanwhile, the result of Encrypt is on out_data with
out_valid = 1; in a CORE that is not ready it is ignored; and the rule's example. -/
def Obligations.EncRunsToItsResult : Prop :=
  (∀ k0 k1 d : Block, decode (.cmd (0#1 ++ k0 ++ k1 ++ d)) = .ok (.enc k0 k1 d)) ∧
  (∀ (k0 k1 d : Block) (s : State), s.phase = .idle → s.ports.rst = false → s.latency.Lawful →
    ∃ a, exec (.enc k0 k1 d) s = .next a ∧
      a = { s with mode := .forward, k0r := k0, k1r := k1, st := d, upc := 0, ov := false, phase := .busy,
                   cnt := s.latency.enc } ∧
      ∀ is : List Inputs, is.length = s.latency.enc → NoReset is →
        ∃ t, cycles is a = .next t ∧ t.outValid = true ∧ t.outData = encrypt s.tables k0 k1 d ∧
          t.outData = princeCore s.tables k0 k1 d .forward) ∧
  (∀ (k0 k1 d : Block) (s : State), s.inReady = false → exec (.enc k0 k1 d) s = .next s) ∧
  encrypt defaultTables 0#64 0#64 0#64 = 0x0125fc7359441690#64

/-- Rule R108 (DEC): its encoding; as for ENC, with MODE ← 1, (K0R, K1R) ← (k1 ⊕ BETA, k0 ⊕ ALPHA) and the result of Decrypt, where
the command carries the encryption key. -/
def Obligations.DecRunsToItsResult : Prop :=
  (∀ k0 k1 d : Block, decode (.cmd (1#1 ++ k0 ++ k1 ++ d)) = .ok (.dec k0 k1 d)) ∧
  (∀ (k0 k1 d : Block) (s : State), s.phase = .idle → s.ports.rst = false → s.latency.Lawful →
    ∃ a, exec (.dec k0 k1 d) s = .next a ∧
      a = { s with mode := .backward, k0r := k1 ^^^ s.tables.beta, k1r := k0 ^^^ s.tables.alpha, st := d, upc := 0,
                   ov := false, phase := .busy, cnt := s.latency.dec } ∧
      ∀ is : List Inputs, is.length = s.latency.dec → NoReset is →
        ∃ t, cycles is a = .next t ∧ t.outValid = true ∧ t.outData = decrypt s.tables k0 k1 d ∧
          t.outData = princeCore s.tables (k1 ^^^ s.tables.beta) (k0 ^^^ s.tables.alpha) d .backward) ∧
  (∀ (k0 k1 d : Block) (s : State), s.inReady = false → exec (.dec k0 k1 d) s = .next s) ∧
  decrypt defaultTables 0#64 0#64 0x0125fc7359441690#64 = 0#64

/-- Rule R110: the accept edge, register by register, from the ports; RES is not changed; and the operands are sampled
at this edge alone, so that whatever is on the ports at the edges of the command without reset, the state is the same.
The tail of the port values and the edge count are the model's own (log entries 5 and 8). -/
def Obligations.AcceptEdgeLoadsTheCommand : Prop :=
  ∀ s : State, s.phase = .idle → s.ports.rst = false → s.ports.inValid = true →
    ∃ t, step s = .next t ∧
      t = { s with
        mode    := if s.ports.inMode then .backward else .forward
        k0r     := if s.ports.inMode then s.ports.inKey.extractLsb 63 0 ^^^ s.tables.beta
                   else s.ports.inKey.extractLsb 127 64
        k1r     := if s.ports.inMode then s.ports.inKey.extractLsb 127 64 ^^^ s.tables.alpha
                   else s.ports.inKey.extractLsb 63 0
        st      := s.ports.inData
        upc     := 0
        ov      := false
        phase   := .busy
        cnt     := if s.ports.inMode then s.latency.dec else s.latency.enc
        inputs  := s.inputs.tail
        edges   := s.edges + 1 } ∧
      ∀ is js : List Inputs, NoReset is → NoReset js → is.length = js.length → is.length ≤ t.cnt →
        ∃ u, cycles is t = .next u ∧ cycles js t = .next u

/-- Rule R111: while BUSY without reset each edge counts CNT down by one with OV, RES and PHASE as they were, and the
edge at CNT = 1 writes RES with Core of the values the accept step loaded, sets OV and returns to IDLE; commands
presented meanwhile are of no effect. `s` is the state after the accept edge, with nothing of the micro-sequence run. -/
def Obligations.BusyEdgesCountDownAndComplete : Prop :=
  ∀ (s : State) (is : List Inputs), s.phase = .busy → s.upc.val = 0 → 1 ≤ s.cnt → is.length = s.cnt → NoReset is →
    (∀ n, n < s.cnt → ∃ u, cycles (is.take n) s = .next u ∧ u.phase = .busy ∧ u.cnt = s.cnt - n ∧ u.ov = s.ov ∧
      u.res = s.res) ∧
    ∃ t, cycles is s = .next t ∧ t.phase = .idle ∧ t.ov = true ∧
      t.res = princeCore s.tables s.k0r s.k1r s.st s.mode

/-- Rule R112: an edge in IDLE with no reset and no command changes no register; only the model's port values and edge
count move on (log entries 5 and 8). -/
def Obligations.HoldEdgeChangesNothing : Prop :=
  ∀ s : State, s.phase = .idle → s.ports.rst = false → s.ports.inValid = false →
    step s = .next { s with inputs := s.inputs.tail, edges := s.edges + 1 }

/-- Rules R113 and R146: at an edge where in_ready = 0, because the CORE is BUSY or rst = 1, the state after the edge
is the same whatever is on in_valid, in_mode, in_key and in_data; and the meaning of a command presented to a CORE that
is not ready leaves the state as it is. -/
def Obligations.CommandsAreIgnoredWhileNotReady : Prop :=
  (∀ (s : State) (i j : Inputs), i.rst = j.rst → s.readyAt i.rst = false →
    ∃ t, cycle i s = .next t ∧ cycle j s = .next t) ∧
  (∀ (k0 k1 d : Block) (s : State), s.inReady = false →
    exec (.enc k0 k1 d) s = .next s ∧ exec (.dec k0 k1 d) s = .next s)

/-- What a host observes of one command: accepted at one edge, not ready and not valid after that edge and the
LATENCY - 1 edges that follow, valid and ready with the result after the LATENCY-th, and so through any number of
further edges without command or reset. The spec marks this as derived. -/
def Obligations.HostObservesOneCommand : Prop :=
  ∀ (s : State) (p : Inputs) (is quiet : List Inputs), s.phase = .idle → s.latency.Lawful →
    p.rst = false → p.inValid = true → NoReset is → is.length = latencyOf s.latency (modeOf p.inMode) → Quiet quiet →
    (∀ n, n < is.length → ∃ u, cycles (p :: is.take n) s = .next u ∧ u.readyAt false = false ∧ u.outValid = false) ∧
    ∃ t, cycles (p :: is ++ quiet) s = .next t ∧ t.readyAt false = true ∧ t.outValid = true ∧
      t.outData = if p.inMode
        then decrypt s.tables (p.inKey.extractLsb 127 64) (p.inKey.extractLsb 63 0) p.inData
        else encrypt s.tables (p.inKey.extractLsb 127 64) (p.inKey.extractLsb 63 0) p.inData

/-- A result stays on out_data with out_valid = 1 over any number of edges without command or reset, and the edge that
accepts the next command takes out_valid away (rules R112 and R110 over several edges). -/
def Obligations.ResultHeldUntilTheNextCommand : Prop :=
  ∀ (s : State) (quiet : List Inputs), s.phase = .idle → s.ov = true → Quiet quiet →
    ∃ t, cycles quiet s = .next t ∧ t.outValid = true ∧ t.outData = s.outData ∧ t.phase = .idle ∧
      ∀ p : Inputs, p.rst = false → p.inValid = true →
        ∃ u, cycle p t = .next u ∧ u.outValid = false ∧ u.readyAt false = false

/-! ### Reset and priority -/

/-- Rule R140: at an edge with rst = 1, whatever the state and the other inputs, PHASE ← IDLE and OV ← 0, the tables
are unchanged, no command is accepted since in_ready = 0, and after the edge the CORE is ready. Nothing is said of the
registers that take unspecified values. -/
def Obligations.ResetEdgeFromEveryState : Prop :=
  ∀ s : State, s.ports.rst = true →
    s.inReady = false ∧
    ∃ t, step s = .next t ∧ t.phase = .idle ∧ t.ov = false ∧ t.tables = s.tables ∧
      t.readyAt false = true ∧ t.outValid = false

/-- Rule R141: a reset edge while BUSY, the completion edge among them, aborts the command: its result is not
delivered at that edge or at any later edge without a new command. -/
def Obligations.ResetAbortsTheCommand : Prop :=
  ∀ (s : State) (r : Inputs) (quiet : List Inputs), s.phase = .busy → r.rst = true → Quiet quiet →
    ∃ t, cycles (r :: quiet) s = .next t ∧ t.outValid = false ∧ t.readyAt false = true

/-- At power-up any state may stand, and any number of reset edges, one at least, leads from it to an IDLE and ready
CORE with OV = 0 (rules R143 and R140 together). The power-up state as the model gives it is log entry 14, that LATENCY
is in it log entry 2. -/
def Obligations.PowerUpIsReadyAfterReset : Prop :=
  ∀ (t : Tables) (l : Latency) (r : Inputs) (rs : List Inputs), r.rst = true → (∀ i ∈ rs, i.rst = true) →
    ∃ s, cycles (r :: rs) (State.powerUp t l) = .next s ∧ s.phase = .idle ∧ s.ov = false ∧ s.tables = t ∧
      s.latency = l ∧ s.readyAt false = true

/-- Rule R123: at one edge reset wins, then accept, then busy or completion, then hold; a result due at a reset edge is
lost; a command presented at the completion edge is not accepted and can be accepted at the next edge. The edge count that
the hold edge moves on is the model's own (log entry 5). -/
def Obligations.EdgePriority : Prop :=
  ∀ (s : State) (i : Inputs),
    (i.rst = true → ∃ t, cycle i s = .next t ∧ t.phase = .idle ∧ t.ov = false) ∧
    (i.rst = false → s.phase = .idle → i.inValid = true →
      ∃ t, cycle i s = .next t ∧ t.phase = .busy ∧ t.ov = false ∧ t.st = i.inData) ∧
    (i.rst = false → s.phase = .busy → 1 < s.cnt →
      ∃ t, cycle i s = .next t ∧ t.phase = .busy ∧ t.cnt = s.cnt - 1 ∧ t.ov = s.ov) ∧
    (i.rst = false → s.phase = .busy → s.cnt = 1 →
      ∃ t, cycle i s = .next t ∧ t.phase = .idle ∧ t.ov = true ∧
        ∀ j : Inputs, j.rst = false → j.inValid = true → ∃ u, cycle j t = .next u ∧ u.phase = .busy ∧ u.ov = false) ∧
    (i.rst = false → s.phase = .idle → i.inValid = false →
      cycle i s = .next { s with edges := s.edges + 1 })

/-- OV is set by the completion step and by it alone, which writes RES and returns to IDLE; it is cleared by the accept
step and reset and by them alone; RES is written by completion and reset alone. That the completion step is the one at
UPC = 59 with CNT = 1, or with CNT = 0 in states no run reaches, and that RES takes what the complete micro-sequence
left in ST, is the model's choice (log entry 7). -/
def Obligations.OnlyCompletionSetsOutputValid : Prop :=
  ∀ s t : State, step s = .next t →
    (s.ov = false → t.ov = true →
      s.ports.rst = false ∧ s.phase = .busy ∧ s.upc.val = 59 ∧ s.cnt ≤ 1) ∧
    (s.ports.rst = false → s.phase = .busy → s.upc.val = 59 → s.cnt ≤ 1 →
      t.ov = true ∧ t.phase = .idle ∧ t.res = s.st) ∧
    (s.ov = true → t.ov = false →
      s.ports.rst = true ∨ (s.phase = .idle ∧ s.ports.inValid = true)) ∧
    (s.ports.rst = true ∨ (s.phase = .idle ∧ s.ports.inValid = true) → t.ov = false) ∧
    (s.ports.rst = false → t.res ≠ s.res → t.ov = true ∧ s.phase = .busy ∧ t.phase = .idle)

/-- Rule R18: no step, reset among them, and no meaning of an instruction changes the constant tables; and the diagonal
patterns of the state after reset are 7, 11, 13, 14. -/
def Obligations.TablesNeverChange : Prop :=
  (∀ s t : State, step s = .next t → t.tables = s.tables) ∧
  (∀ (i : Instr) (s t : State), exec i s = .next t → t.tables = s.tables) ∧
  State.reset.tables.mpat = #v[7#4, 11#4, 13#4, 14#4]

/-- No step, reset among them, and no meaning of an instruction changes LATENCY. The spec makes it a parameter of the
instance (rule R4); that it is a field of the state is the model's choice (log entry 2). -/
def Obligations.LatencyNeverChanges : Prop :=
  (∀ s t : State, step s = .next t → t.latency = s.latency) ∧
  (∀ (i : Instr) (s t : State), exec i s = .next t → t.latency = s.latency)

/-- Rule R120: every command vector is a legal command; no command, no micro-operation and no step has a failure
outcome; the only refusal is that of a reserved micro-operation. -/
def Obligations.NothingCanFail : Prop :=
  (∀ w : CmdWord, ∃ i, decode (.cmd w) = .ok i ∧ i.WellFormed) ∧
  (∀ s : State, ∃ t, step s = .next t) ∧
  (∀ (i : Instr) (s : State), i.WellFormed → ∃ t, exec i s = .next t) ∧
  (∀ (i : Instr) (s : State) (r : Reserved), i.illFormed = some r → exec i s = .refused (.reservedUop r))

/-! ### The step and its instructions -/

/-- While BUSY without reset, a step before the end of the sequence runs the micro-operation that the word at UPC decodes
to and then sets UPC ← UPC + 1, as rule R105 says of a micro-operation; that each is a step of its own with no edge in
between, and that the step after position 58 is the busy edge, is the model's choice where rule R105 leaves the grouping
free (log entry 7); the edge count is log entry 5. -/
def Obligations.StepRunsTheMicroOperation : Prop :=
  (∀ s : State, s.phase = .busy → s.ports.rst = false → ∀ (w : UopWord) (i : Instr),
    microRom[s.upc.val]? = some w → decode (.uop w) = .ok i →
    ∃ t, exec i s = .next t ∧ t.upc = s.upc ∧
      ∃ u, step s = .next u ∧ u.upc.val = s.upc.val + 1 ∧ u = { t with upc := u.upc }) ∧
  (∀ s : State, s.phase = .busy → s.ports.rst = false → s.upc.val < 59 →
    ∃ w i, microRom[s.upc.val]? = some w ∧ decode (.uop w) = .ok i) ∧
  (∀ s : State, s.phase = .busy → s.ports.rst = false → s.upc.val = 59 →
    ∃ t, step s = .next t ∧ t.upc = s.upc ∧ t.st = s.st ∧ t.edges = s.edges + 1)

/-- A step in IDLE without reset and with a command on the ports is the meaning of the decoded command. What the step adds
around the meaning is the model's choice: the edge is the step's and not the meaning's (log entry 10), after it the port
values of the next edge come up (log entry 8), and the edge is counted (log entry 5). -/
def Obligations.StepRunsThePresentedCommand : Prop :=
  ∀ (s t : State) (i : Instr), s.phase = .idle → s.ports.rst = false → s.ports.inValid = true →
    decode (.cmd (BitVec.ofBool s.ports.inMode ++ s.ports.inKey ++ s.ports.inData)) = .ok i →
    exec i s = .next t → step s = .next { t with inputs := s.inputs.tail, edges := s.edges + 1 }

/-- A step from a state in which CNT is in [1, LATENCY(MODE)] while BUSY (rule R14) leads to one, from every such state;
with it go OV = 0 while BUSY and a latency of at least 1. -/
def Obligations.CountStaysInRange : Prop :=
  ∀ s t : State, Inv s → step s = .next t → Inv t

/-- The state right after reset meets the invariant, is IDLE and ready with OV = 0, and carries the default tables.
Its latency and data registers are the model's choice (log entries 2 and 4), of which nothing more is said. -/
def Obligations.ResetStateIsIdleAndReady : Prop :=
  Inv State.reset ∧ State.reset.phase = .idle ∧ State.reset.inReady = true ∧ State.reset.outValid = false ∧
    State.reset.tables = defaultTables

/-- This machine, which runs the micro-sequence after the accept edge, simulates the spec's edge-by-edge step function,
which keeps the accepted values and applies Core at completion: the two model options of the completion rule, which the
spec says give the same RES. The draws of a reset edge are the same in both (log entry 5). The outputs compared are
in_ready, out_valid, and out_data while out_valid = 1. -/
def Obligations.RefinesTheSpecStep : Prop :=
  ∀ (i : Inputs) (spec impl : State), Simulates spec impl →
    (∃ impl', cycle i impl = .next impl' ∧ Simulates (specCycle i spec) impl') ∧
    (∀ rst : Bool, outputs impl rst = outputs spec rst)

/-- What is hidden has no influence on in_ready, out_valid, and out_data while out_valid = 1. Registers that nothing
reads before they are loaded: from two states that differ only in RES while OV = 0 and in ST, K0R, K1R, MODE, UPC and
CNT while IDLE, every step leads to two such states. The outputs of a state are the same whatever ST, K0R, K1R, MODE,
UPC and CNT hold, while BUSY too. And intermediate values do not come out before completion: from two BUSY states that
differ in ST, K0R, K1R and UPC, an edge that resets or counts down leads to the same outputs, and one that counts down
to two BUSY states that again differ in no more. -/
def Obligations.HiddenStateNeverShows : Prop :=
  (∀ s u : State, Indistinguishable s u →
    (∀ rst : Bool, outputs s rst = outputs u rst) ∧
    ∃ s' u', step s = .next s' ∧ step u = .next u' ∧ Indistinguishable s' u') ∧
  (∀ (s : State) (st k0r k1r : Block) (mode : Mode) (upc : Fin 60) (cnt : Nat) (rst : Bool),
    outputs { s with st := st, k0r := k0r, k1r := k1r, mode := mode, upc := upc, cnt := cnt } rst = outputs s rst) ∧
  (∀ (s : State) (st k0r k1r : Block) (upc : Fin 60) (i : Inputs), s.phase = .busy → i.rst = true ∨ 1 < s.cnt →
    ∃ t u, cycle i s = .next t ∧ cycle i { s with st := st, k0r := k0r, k1r := k1r, upc := upc } = .next u ∧
      (∀ rst : Bool, outputs u rst = outputs t rst) ∧
      (i.rst = false → t.phase = .busy ∧ u = { t with st := u.st, k0r := u.k0r, k1r := u.k1r, upc := u.upc }))

/-! ### Ports, tables, vectors, host notation -/

/-- The status outputs: in_ready is IDLE and not reset, out_valid is OV, and out_data is RES while OV = 1; its value
while OV = 0 is free (log entry 6). -/
def Obligations.StatusPortsShowTheState : Prop :=
  ∀ (s : State) (rst : Bool),
    (s.readyAt rst = true ↔ s.phase = .idle ∧ rst = false) ∧ s.outValid = s.ov ∧ (s.ov = true → s.outData = s.res)

/-- The default tables meet every law a table must satisfy, and every entry is the one rules R70, R73, R76 and R94 list
as the default (log entry 3). -/
def Obligations.DefaultTablesAreLawful : Prop :=
  defaultTables.Lawful ∧
  defaultTables.sbox = #v[0xb, 0xf, 0x3, 0x2, 0xa, 0xc, 0x9, 0x1, 0x6, 0x7, 0x8, 0x0, 0xe, 0x5, 0xd, 0x4] ∧
  defaultTables.sboxInv = #v[0xb, 0x7, 0x3, 0x2, 0xf, 0xd, 0x8, 0x9, 0xa, 0x6, 0x4, 0x0, 0x5, 0xe, 0xc, 0x1] ∧
  defaultTables.sr = #v[0, 5, 10, 15, 4, 9, 14, 3, 8, 13, 2, 7, 12, 1, 6, 11] ∧
  defaultTables.srInv = #v[0, 13, 10, 7, 4, 1, 14, 11, 8, 5, 2, 15, 12, 9, 6, 3] ∧
  defaultTables.rc = #v[0x0000000000000000#64, 0x13198a2e03707344#64, 0xa4093822299f31d0#64, 0x082efa98ec4e6c89#64,
    0x452821e638d01377#64, 0xbe5466cf34e90c6c#64, 0x7ef84f78fd955cb1#64, 0x7aacf4538d971a60#64,
    0xc882d32f25323c54#64, 0x9b8ded979cd838c7#64, 0xd3b5a399ca0c2399#64] ∧
  defaultTables.alpha = 0xc0ac29b7c97c50dd#64 ∧ defaultTables.beta = 0x3f84d5b5b5470917#64 ∧
  defaultTables.mpat = #v[0x7#4, 0xb#4, 0xd#4, 0xe#4] ∧
  defaultTables.alpha ^^^ defaultTables.beta = 0xff28fc027c3b59ca#64 ∧
  defaultTables.rc.get 7 = defaultTables.rc.get 4 ^^^ defaultTables.beta ∧
  defaultTables.rc.get 9 = defaultTables.rc.get 2 ^^^ defaultTables.beta

/-- The five vectors S2, S3, S3', S4 and S8 of 95_test_vectors.md, which hold for the default tables (log entry 3). -/
def Obligations.PublishedVectors : Prop :=
  encrypt defaultTables 0#64 0#64 0#64 = 0x0125fc7359441690#64 ∧
  encrypt defaultTables (BitVec.allOnes 64) 0#64 0#64 = 0xee873b2ec447944d#64 ∧
  encrypt defaultTables 0#64 (BitVec.allOnes 64) 0#64 = 0x0ac6f9cd6e6f275d#64 ∧
  encrypt defaultTables 0#64 0#64 (BitVec.allOnes 64) = 0x832bd46f108e7857#64 ∧
  encrypt defaultTables 0x0123456789abcdef#64 0xfedcba9876543210#64 0x0123456789abcdef#64 = 0x603cd95fa72a8704#64

/-- What the lines of the host notation do, each by the cycle with the ports it drives. ENC and DEC present their
command until the edge that accepts it and stay while the CORE is BUSY; RESET is one edge with rst = 1, and what else is
on its ports has no effect; IDLE n is n edges with in_valid = 0; WAITV has in_valid = 0 and is done at an edge after
which out_valid = 1; READ takes no edge and records out_data while out_valid = 1 and otherwise nothing; POKE drives its
ports for one edge. The model's choice (log entry 12): an ENC or DEC line ends with its accept edge, so that the next
line drives the next edge and may have in_valid = 1 there, where R49 says in_valid = 0; WAITV takes at least one edge;
RESET drives in_valid = 0 and, like IDLE and WAITV, zero on the command ports; POKE gives all its ports; and READ while
out_valid = 0 records nothing. -/
def Obligations.HostLinesDriveTheirEdges : Prop :=
  ∀ (s : State) (rest : List HostLine) (vars : List (String × Block)) (k0 k1 d : Block) (name : String),
    (s.phase = .idle → ∃ t, cycle ⟨false, true, false, k0 ++ k1, d⟩ s = .next t ∧
      hostStep ⟨.enc k0 k1 d :: rest, s, vars⟩ = .next ⟨rest, t, vars⟩ ∧
      t.phase = .busy ∧ t.mode = .forward ∧ t.k0r = k0 ∧ t.k1r = k1 ∧ t.st = d) ∧
    (s.phase = .busy → ∃ t, cycle ⟨false, true, false, k0 ++ k1, d⟩ s = .next t ∧
      hostStep ⟨.enc k0 k1 d :: rest, s, vars⟩ = .next ⟨.enc k0 k1 d :: rest, t, vars⟩) ∧
    (s.phase = .idle → ∃ t, cycle ⟨false, true, true, k0 ++ k1, d⟩ s = .next t ∧
      hostStep ⟨.dec k0 k1 d :: rest, s, vars⟩ = .next ⟨rest, t, vars⟩ ∧
      t.phase = .busy ∧ t.mode = .backward ∧ (t.k0r, t.k1r) = decKey s.tables k0 k1 ∧ t.st = d) ∧
    (s.phase = .busy → ∃ t, cycle ⟨false, true, true, k0 ++ k1, d⟩ s = .next t ∧
      hostStep ⟨.dec k0 k1 d :: rest, s, vars⟩ = .next ⟨.dec k0 k1 d :: rest, t, vars⟩) ∧
    (∀ p : Inputs, p.rst = true → ∃ t, cycle p s = .next t ∧
      hostStep ⟨.reset :: rest, s, vars⟩ = .next ⟨rest, t, vars⟩ ∧ t.phase = .idle ∧ t.ov = false) ∧
    hostStep ⟨.idle 0 :: rest, s, vars⟩ = .next ⟨rest, s, vars⟩ ∧
    (∀ n, ∃ t, cycle quietPorts s = .next t ∧
      hostStep ⟨.idle (n + 1) :: rest, s, vars⟩ = .next ⟨.idle n :: rest, t, vars⟩) ∧
    (∀ n, ∃ t, cycles (List.replicate n quietPorts) s = .next t ∧
      hostRun (n + 1) ⟨.idle n :: rest, s, vars⟩ = .next ⟨rest, t, vars⟩) ∧
    (quietPorts.rst = false ∧ quietPorts.inValid = false) ∧
    (∃ t, cycle quietPorts s = .next t ∧
      hostStep ⟨.waitv :: rest, s, vars⟩ = .next ⟨if t.outValid then rest else .waitv :: rest, t, vars⟩) ∧
    (s.ov = true → hostStep ⟨.read name :: rest, s, vars⟩ = .next ⟨rest, s, (name, s.res) :: vars⟩) ∧
    (s.ov = false → hostStep ⟨.read name :: rest, s, vars⟩ = .next ⟨rest, s, vars⟩) ∧
    (∀ p : Inputs, ∃ t, cycle p s = .next t ∧ hostStep ⟨.poke p :: rest, s, vars⟩ = .next ⟨rest, t, vars⟩) ∧
    hostStep ⟨[], s, vars⟩ = .next ⟨[], s, vars⟩
end

