-- ==== Sys2Proof/Laws/Block.lean ====
section
/-! SUPPORT. The nibble view bit by bit, and the layers nibble by nibble. -/

namespace Sys2Proof.Machine

/-- Bit j of nibble i is bit 60 - 4i + j of the block (rule R60). -/
theorem getLsbD_nib (b : Block) (i : Fin 16) (j : Nat) :
    (nib b i).getLsbD j = (decide (j < 4) && b.getLsbD (60 - 4 * i.val + j)) := by
  simp [nib]

/-- Two nibbles with the same four bits are equal. -/
theorem nibble_ext {a b : Nibble} (h : ∀ j < 4, a.getLsbD j = b.getLsbD j) : a = b :=
  BitVec.eq_of_getLsbD_eq h

/-- Nibble i of a block built from nibbles is the nibble given for i (rule R6). -/
theorem nib_fromNibbles (f : Fin 16 → Nibble) (i : Fin 16) : nib (fromNibbles f) i = f i := by
  apply nibble_ext
  intro j hj
  rw [getLsbD_nib, fromNibbles, BitVec.getLsbD_append]
  simp only [BitVec.getLsbD_append]
  match i with
  | ⟨k, hk⟩ => interval_cases k <;> interval_cases j <;> rfl

/-- Each output nibble of a substitution is the table's entry for the input nibble of the same index. -/
theorem nib_substitute (table : Vector (Fin 16) 16) (x : Block) (i : Fin 16) :
    nib (substitute table x) i = lookup table (nib x i) :=
  nib_fromNibbles _ i

/-- Each output nibble of a gather is the input nibble the table names for it. -/
theorem nib_gather (table : Vector (Fin 16) 16) (x : Block) (i : Fin 16) :
    nib (gather table x) i = nib x (table.get i) :=
  nib_fromNibbles _ i

/-- Each output nibble of the M-layer is a block matrix's output on its own group. -/
theorem nib_mLayer (t : Tables) (x : Block) (i : Fin 16) :
    nib (mLayer t x) i =
      mHat t (groupShift (i.val / 4)) (fun j => nib x ⟨4 * (i.val / 4) + j.val, by omega⟩)
        ⟨i.val % 4, Nat.mod_lt _ (by decide)⟩ :=
  nib_fromNibbles _ i

end Sys2Proof.Machine
end

