-- ==== Sys2Proof/Laws/State.lean ====
section
/-! SUPPORT. One lemma per field per named update of the state, each true by unfolding. -/

namespace Sys2Proof.Machine

/-! ### setSt -/

@[simp] theorem setSt_phase (s : State) (v : Block) : (s.setSt v).phase = s.phase := rfl
@[simp] theorem setSt_cnt (s : State) (v : Block) : (s.setSt v).cnt = s.cnt := rfl
@[simp] theorem setSt_ov (s : State) (v : Block) : (s.setSt v).ov = s.ov := rfl
@[simp] theorem setSt_res (s : State) (v : Block) : (s.setSt v).res = s.res := rfl
@[simp] theorem setSt_st (s : State) (v : Block) : (s.setSt v).st = v := rfl
@[simp] theorem setSt_k0r (s : State) (v : Block) : (s.setSt v).k0r = s.k0r := rfl
@[simp] theorem setSt_k1r (s : State) (v : Block) : (s.setSt v).k1r = s.k1r := rfl
@[simp] theorem setSt_mode (s : State) (v : Block) : (s.setSt v).mode = s.mode := rfl
@[simp] theorem setSt_upc (s : State) (v : Block) : (s.setSt v).upc = s.upc := rfl
@[simp] theorem setSt_tables (s : State) (v : Block) : (s.setSt v).tables = s.tables := rfl
@[simp] theorem setSt_latency (s : State) (v : Block) : (s.setSt v).latency = s.latency := rfl
@[simp] theorem setSt_inputs (s : State) (v : Block) : (s.setSt v).inputs = s.inputs := rfl
@[simp] theorem setSt_edges (s : State) (v : Block) : (s.setSt v).edges = s.edges := rfl

/-! ### xorSt -/

@[simp] theorem xorSt_phase (s : State) (v : Block) : (s.xorSt v).phase = s.phase := rfl
@[simp] theorem xorSt_cnt (s : State) (v : Block) : (s.xorSt v).cnt = s.cnt := rfl
@[simp] theorem xorSt_ov (s : State) (v : Block) : (s.xorSt v).ov = s.ov := rfl
@[simp] theorem xorSt_res (s : State) (v : Block) : (s.xorSt v).res = s.res := rfl
@[simp] theorem xorSt_st (s : State) (v : Block) : (s.xorSt v).st = s.st ^^^ v := rfl
@[simp] theorem xorSt_k0r (s : State) (v : Block) : (s.xorSt v).k0r = s.k0r := rfl
@[simp] theorem xorSt_k1r (s : State) (v : Block) : (s.xorSt v).k1r = s.k1r := rfl
@[simp] theorem xorSt_mode (s : State) (v : Block) : (s.xorSt v).mode = s.mode := rfl
@[simp] theorem xorSt_upc (s : State) (v : Block) : (s.xorSt v).upc = s.upc := rfl
@[simp] theorem xorSt_tables (s : State) (v : Block) : (s.xorSt v).tables = s.tables := rfl
@[simp] theorem xorSt_latency (s : State) (v : Block) : (s.xorSt v).latency = s.latency := rfl
@[simp] theorem xorSt_inputs (s : State) (v : Block) : (s.xorSt v).inputs = s.inputs := rfl
@[simp] theorem xorSt_edges (s : State) (v : Block) : (s.xorSt v).edges = s.edges := rfl

/-! ### flipKeys -/

@[simp] theorem flipKeys_phase (s : State) : (s.flipKeys).phase = s.phase := rfl
@[simp] theorem flipKeys_cnt (s : State) : (s.flipKeys).cnt = s.cnt := rfl
@[simp] theorem flipKeys_ov (s : State) : (s.flipKeys).ov = s.ov := rfl
@[simp] theorem flipKeys_res (s : State) : (s.flipKeys).res = s.res := rfl
@[simp] theorem flipKeys_st (s : State) : (s.flipKeys).st = s.st := rfl
@[simp] theorem flipKeys_k0r (s : State) : (s.flipKeys).k0r = flipHalf s.tables s.mode s.k0r := rfl
@[simp] theorem flipKeys_k1r (s : State) : (s.flipKeys).k1r = flipHalf s.tables s.mode s.k1r := rfl
@[simp] theorem flipKeys_mode (s : State) : (s.flipKeys).mode = s.mode := rfl
@[simp] theorem flipKeys_upc (s : State) : (s.flipKeys).upc = s.upc := rfl
@[simp] theorem flipKeys_tables (s : State) : (s.flipKeys).tables = s.tables := rfl
@[simp] theorem flipKeys_latency (s : State) : (s.flipKeys).latency = s.latency := rfl
@[simp] theorem flipKeys_inputs (s : State) : (s.flipKeys).inputs = s.inputs := rfl
@[simp] theorem flipKeys_edges (s : State) : (s.flipKeys).edges = s.edges := rfl

/-! ### accept -/

@[simp] theorem accept_phase (s : State) (m : Mode) (k0 k1 d : Block) : (s.accept m k0 k1 d).phase = .busy := rfl
@[simp] theorem accept_cnt (s : State) (m : Mode) (k0 k1 d : Block) : (s.accept m k0 k1 d).cnt = latencyOf s.latency m := rfl
@[simp] theorem accept_ov (s : State) (m : Mode) (k0 k1 d : Block) : (s.accept m k0 k1 d).ov = false := rfl
@[simp] theorem accept_res (s : State) (m : Mode) (k0 k1 d : Block) : (s.accept m k0 k1 d).res = s.res := rfl
@[simp] theorem accept_st (s : State) (m : Mode) (k0 k1 d : Block) : (s.accept m k0 k1 d).st = d := rfl
@[simp] theorem accept_k0r (s : State) (m : Mode) (k0 k1 d : Block) : (s.accept m k0 k1 d).k0r = (loadedKeys s.tables m k0 k1).1 := rfl
@[simp] theorem accept_k1r (s : State) (m : Mode) (k0 k1 d : Block) : (s.accept m k0 k1 d).k1r = (loadedKeys s.tables m k0 k1).2 := rfl
@[simp] theorem accept_mode (s : State) (m : Mode) (k0 k1 d : Block) : (s.accept m k0 k1 d).mode = m := rfl
@[simp] theorem accept_upc (s : State) (m : Mode) (k0 k1 d : Block) : (s.accept m k0 k1 d).upc = 0 := rfl
@[simp] theorem accept_tables (s : State) (m : Mode) (k0 k1 d : Block) : (s.accept m k0 k1 d).tables = s.tables := rfl
@[simp] theorem accept_latency (s : State) (m : Mode) (k0 k1 d : Block) : (s.accept m k0 k1 d).latency = s.latency := rfl
@[simp] theorem accept_inputs (s : State) (m : Mode) (k0 k1 d : Block) : (s.accept m k0 k1 d).inputs = s.inputs := rfl
@[simp] theorem accept_edges (s : State) (m : Mode) (k0 k1 d : Block) : (s.accept m k0 k1 d).edges = s.edges := rfl

/-! ### complete -/

@[simp] theorem complete_phase (s : State) : (s.complete).phase = .idle := rfl
@[simp] theorem complete_cnt (s : State) : (s.complete).cnt = s.cnt := rfl
@[simp] theorem complete_ov (s : State) : (s.complete).ov = true := rfl
@[simp] theorem complete_res (s : State) : (s.complete).res = s.st := rfl
@[simp] theorem complete_st (s : State) : (s.complete).st = s.st := rfl
@[simp] theorem complete_k0r (s : State) : (s.complete).k0r = s.k0r := rfl
@[simp] theorem complete_k1r (s : State) : (s.complete).k1r = s.k1r := rfl
@[simp] theorem complete_mode (s : State) : (s.complete).mode = s.mode := rfl
@[simp] theorem complete_upc (s : State) : (s.complete).upc = s.upc := rfl
@[simp] theorem complete_tables (s : State) : (s.complete).tables = s.tables := rfl
@[simp] theorem complete_latency (s : State) : (s.complete).latency = s.latency := rfl
@[simp] theorem complete_inputs (s : State) : (s.complete).inputs = s.inputs := rfl
@[simp] theorem complete_edges (s : State) : (s.complete).edges = s.edges := rfl

/-! ### resetRegs -/

@[simp] theorem resetRegs_phase (s : State) : (s.resetRegs).phase = .idle := rfl
@[simp] theorem resetRegs_cnt (s : State) : (s.resetRegs).cnt = Config.freeCnt s.edges := rfl
@[simp] theorem resetRegs_ov (s : State) : (s.resetRegs).ov = false := rfl
@[simp] theorem resetRegs_res (s : State) : (s.resetRegs).res = Config.freeRes s.edges := rfl
@[simp] theorem resetRegs_st (s : State) : (s.resetRegs).st = Config.freeSt s.edges := rfl
@[simp] theorem resetRegs_k0r (s : State) : (s.resetRegs).k0r = Config.freeK0r s.edges := rfl
@[simp] theorem resetRegs_k1r (s : State) : (s.resetRegs).k1r = Config.freeK1r s.edges := rfl
@[simp] theorem resetRegs_mode (s : State) : (s.resetRegs).mode = Config.freeMode s.edges := rfl
@[simp] theorem resetRegs_upc (s : State) : (s.resetRegs).upc = (Config.freeUpc s.edges).castSucc := rfl
@[simp] theorem resetRegs_tables (s : State) : (s.resetRegs).tables = s.tables := rfl
@[simp] theorem resetRegs_latency (s : State) : (s.resetRegs).latency = s.latency := rfl
@[simp] theorem resetRegs_inputs (s : State) : (s.resetRegs).inputs = s.inputs := rfl
@[simp] theorem resetRegs_edges (s : State) : (s.resetRegs).edges = s.edges := rfl

/-! ### tick -/

@[simp] theorem tick_phase (s : State) : (s.tick).phase = s.phase := rfl
@[simp] theorem tick_cnt (s : State) : (s.tick).cnt = s.cnt := rfl
@[simp] theorem tick_ov (s : State) : (s.tick).ov = s.ov := rfl
@[simp] theorem tick_res (s : State) : (s.tick).res = s.res := rfl
@[simp] theorem tick_st (s : State) : (s.tick).st = s.st := rfl
@[simp] theorem tick_k0r (s : State) : (s.tick).k0r = s.k0r := rfl
@[simp] theorem tick_k1r (s : State) : (s.tick).k1r = s.k1r := rfl
@[simp] theorem tick_mode (s : State) : (s.tick).mode = s.mode := rfl
@[simp] theorem tick_upc (s : State) : (s.tick).upc = s.upc := rfl
@[simp] theorem tick_tables (s : State) : (s.tick).tables = s.tables := rfl
@[simp] theorem tick_latency (s : State) : (s.tick).latency = s.latency := rfl
@[simp] theorem tick_inputs (s : State) : (s.tick).inputs = s.inputs.tail := rfl
@[simp] theorem tick_edges (s : State) : (s.tick).edges = s.edges + 1 := rfl

/-! ### nextUop -/

@[simp] theorem nextUop_phase (s : State) : (s.nextUop).phase = s.phase := rfl
@[simp] theorem nextUop_cnt (s : State) : (s.nextUop).cnt = s.cnt := rfl
@[simp] theorem nextUop_ov (s : State) : (s.nextUop).ov = s.ov := rfl
@[simp] theorem nextUop_res (s : State) : (s.nextUop).res = s.res := rfl
@[simp] theorem nextUop_st (s : State) : (s.nextUop).st = s.st := rfl
@[simp] theorem nextUop_k0r (s : State) : (s.nextUop).k0r = s.k0r := rfl
@[simp] theorem nextUop_k1r (s : State) : (s.nextUop).k1r = s.k1r := rfl
@[simp] theorem nextUop_mode (s : State) : (s.nextUop).mode = s.mode := rfl
@[simp] theorem nextUop_tables (s : State) : (s.nextUop).tables = s.tables := rfl
@[simp] theorem nextUop_latency (s : State) : (s.nextUop).latency = s.latency := rfl
@[simp] theorem nextUop_inputs (s : State) : (s.nextUop).inputs = s.inputs := rfl
@[simp] theorem nextUop_edges (s : State) : (s.nextUop).edges = s.edges := rfl

/-- UPC moves on by exactly 1 before the end of the sequence (rule R105). -/
theorem nextUop_upc_val (s : State) (h : s.upc.val < 59) : s.nextUop.upc.val = s.upc.val + 1 := by
  simp [State.nextUop, h]

end Sys2Proof.Machine
end

