-- ==== Sys2Proof/Laws/Ops.lean ====
section
/-! SUPPORT. What each shared operation does, said once: the operands, the offer of a command, the busy or
completion step, and how a step adds to a meaning's next state. -/

namespace Sys2Proof.Machine

/-- A round constant exists exactly for the indexes 0 to 10 (rule R47). -/
theorem rcOperand_of_lt (t : Tables) (i : BitVec 4) (h : i.toNat < 11) :
    rcOperand t i = some (t.rc.get ⟨i.toNat, h⟩) := by
  simp [rcOperand, h]

/-- The indexes 11 to 15 name no round constant (rule R47). -/
theorem rcOperand_of_ge (t : Tables) (i : BitVec 4) (h : 11 ≤ i.toNat) : rcOperand t i = none := by
  simp [rcOperand, Nat.not_lt.mpr h]

@[simp] theorem keyOperand_zero (s : State) : keyOperand s 0#2 = some s.k0r := rfl
@[simp] theorem keyOperand_one (s : State) : keyOperand s 1#2 = some s.k1r := rfl
@[simp] theorem keyOperand_two (s : State) : keyOperand s 2#2 = some (s.k1r ^^^ s.tables.beta) := rfl
@[simp] theorem keyOperand_three (s : State) : keyOperand s 3#2 = none := rfl

/-- The four selectors of XK (rule R47). -/
theorem selector_cases (sel : BitVec 2) : sel = 0#2 ∨ sel = 1#2 ∨ sel = 2#2 ∨ sel = 3#2 := by
  revert sel; decide

/-- A ready CORE accepts the command it is offered (rule R110). -/
theorem offer_of_ready (s : State) (m : Mode) (k0 k1 d : Block) (h : s.inReady = true) :
    s.offer m k0 k1 d = s.accept m k0 k1 d := by
  simp [State.offer, h]

/-- A CORE that is not ready ignores the command it is offered (rule R113). -/
theorem offer_of_not_ready (s : State) (m : Mode) (k0 k1 d : Block) (h : s.inReady = false) :
    s.offer m k0 k1 d = s := by
  simp [State.offer, h]

/-- in_ready means IDLE and no reset at the coming edge (rule R16). -/
theorem inReady_iff (s : State) : s.inReady = true ↔ s.phase = .idle ∧ s.ports.rst = false := by
  simp [State.inReady, State.readyAt]

/-- Everything the busy or completion step can do (rule R111). -/
theorem busyOrComplete_cases (s : State) :
    (1 < s.cnt ∧ s.busyOrComplete = { s with cnt := s.cnt - 1 }) ∨ (s.cnt ≤ 1 ∧ s.busyOrComplete = s.complete) := by
  by_cases h : 1 < s.cnt
  · exact .inl ⟨h, by simp [State.busyOrComplete, h]⟩
  · exact .inr ⟨by omega, by simp [State.busyOrComplete, h]⟩

/-- A step that adds `f` to a meaning answers a next state exactly where the meaning does. -/
theorem andThen_eq_next (o : Host.Outcome State Fault Refusal) (f : State → State) (t : State) :
    andThen o f = .next t ↔ ∃ s, o = .next s ∧ f s = t := by
  cases o <;> simp [andThen]

@[simp] theorem andThen_next (s : State) (f : State → State) : andThen (.next s) f = .next (f s) := rfl

end Sys2Proof.Machine
end

