-- ==== Sys2Proof/Laws/PerInstr.lean ====
section
/-! SUPPORT. The statements made per instruction. Family `MatchesTable`: the word of a well-formed instruction lies in
its row of spec/opcode_table.json, format, mask and match. -/

namespace Sys2Proof.Laws.MatchesTable

/-- A word lies in a row of the table: its bits under the mask are the match. -/
def InCmdRow (e : Encoded) (mask mtch : CmdWord) : Prop :=
  ∃ w, e = .cmd w ∧ w &&& mask = mtch

/-- As above for the UOP format. -/
def InUopRow (e : Encoded) (mask mtch : UopWord) : Prop :=
  ∃ w, e = .uop w ∧ w &&& mask = mtch

/-- The row of spec/opcode_table.json each constructor stands for. -/
def InRow : Instr → Prop
  | .enc k0 k1 d => InCmdRow (encode (.enc k0 k1 d)) (1#193 <<< 192) 0#193
  | .dec k0 k1 d => InCmdRow (encode (.dec k0 k1 d)) (1#193 <<< 192) (1#193 <<< 192)
  | .sl => InUopRow (encode .sl) 0xfff#12 0x100#12
  | .sli => InUopRow (encode .sli) 0xfff#12 0x200#12
  | .ml => InUopRow (encode .ml) 0xfff#12 0x300#12
  | .sr => InUopRow (encode .sr) 0xfff#12 0x400#12
  | .sri => InUopRow (encode .sri) 0xfff#12 0x500#12
  | .xrc i => InUopRow (encode (.xrc i)) 0xff0#12 0x600#12
  | .xk sel => InUopRow (encode (.xk sel)) 0xffc#12 0x700#12
  | .kflip => InUopRow (encode .kflip) 0xfff#12 0x800#12

/-- The word of a well-formed instruction lies in the instruction's row. -/
def Statement (i : Instr) : Prop := i.WellFormed → InRow i

/-- The bit of a command vector that the mask of both rows keeps. -/
theorem encodeCmd_mode (m : Bool) (k0 k1 d : Block) :
    encodeCmd m k0 k1 d &&& 1#193 <<< 192 = if m then 1#193 <<< 192 else 0#193 := by
  have top : (encodeCmd m k0 k1 d).getLsbD 192 = m := by
    rw [encodeCmd, BitVec.getLsbD_append, BitVec.getLsbD_append, BitVec.getLsbD_append]
    simp
  apply BitVec.eq_of_getLsbD_eq
  intro j hj
  have one : (1#193 <<< 192).getLsbD j = decide (j = 192) := by
    by_cases h : j = 192
    · subst h; decide
    · have : j < 192 := by omega
      rw [BitVec.getLsbD_shiftLeft]
      simp [this, h]
  rw [BitVec.getLsbD_and, one]
  by_cases h : j = 192
  · subst h; rw [top]; cases m <;> decide
  · cases m
    · rw [decide_eq_false h, Bool.and_false]; exact BitVec.getLsbD_zero.symm
    · rw [if_pos rfl, one, decide_eq_false h, Bool.and_false]

theorem enc (k0 k1 d : Block) : Statement (.enc k0 k1 d) :=
  fun _ => ⟨_, rfl, by rw [encodeCmd_mode]; rfl⟩

theorem dec (k0 k1 d : Block) : Statement (.dec k0 k1 d) :=
  fun _ => ⟨_, rfl, by rw [encodeCmd_mode]; rfl⟩

theorem sl : Statement .sl := fun _ => ⟨_, rfl, by decide⟩

theorem sli : Statement .sli := fun _ => ⟨_, rfl, by decide⟩

theorem ml : Statement .ml := fun _ => ⟨_, rfl, by decide⟩

theorem sr : Statement .sr := fun _ => ⟨_, rfl, by decide⟩

theorem sri : Statement .sri := fun _ => ⟨_, rfl, by decide⟩

theorem xrc (i : BitVec 4) : Statement (.xrc i) :=
  fun _ => ⟨_, rfl, by revert i; decide⟩

theorem xk (sel : BitVec 2) : Statement (.xk sel) :=
  fun _ => ⟨_, rfl, by revert sel; decide⟩

theorem kflip : Statement .kflip := fun _ => ⟨_, rfl, by decide⟩

end Sys2Proof.Laws.MatchesTable
end

