-- ==== Sys2Proof/Laws/Safety.lean ====
section
/-! SUPPORT. The small lemmas of the terms of Safety: what the outputs depend on, and where KFLIP stands. -/

namespace Sys2Proof.Machine

theorem outputs_of_valid (s : State) (rst : Bool) (h : s.ov = true) :
    outputs s rst = (s.readyAt rst, true, some s.res) := by
  simp [outputs, State.outValid, State.outData, h]

theorem outputs_of_not_valid (s : State) (rst : Bool) (h : s.ov = false) :
    outputs s rst = (s.readyAt rst, false, none) := by
  simp [outputs, State.outValid, h]

/-- The outputs depend on PHASE, OV and, while OV = 1, RES alone (rules R16, R21). -/
theorem outputs_congr {s u : State} (rst : Bool) (hp : s.phase = u.phase) (ho : s.ov = u.ov)
    (hr : s.ov = true → s.res = u.res) : outputs s rst = outputs u rst := by
  have ready : s.readyAt rst = u.readyAt rst := by rw [State.readyAt, State.readyAt, hp]
  cases h : s.ov
  · rw [outputs_of_not_valid s rst h, outputs_of_not_valid u rst (ho ▸ h), ready]
  · rw [outputs_of_valid s rst h, outputs_of_valid u rst (ho ▸ h), ready, hr h]

theorem sequenceWithKflipAt_rom : sequenceWithKflipAt 30 = instrsOf microRom := by decide

end Sys2Proof.Machine
end

