-- ==== Sys2Proof/Laws/Step.lean ====
section
/-! SUPPORT. The fixed micro-sequence decodes at every position, and everything a step can do, said once. -/

namespace Sys2Proof.Machine

/-- The micro-operation at a position of the sequence, for the laws: the decoded word, SL where there is none. -/
def romInstr (upc : Fin 60) : Instr :=
  match fetchUop upc with
  | none => .sl
  | some w =>
    match decodeUop w with
    | .ok i => i
    | .error _ => .sl

/-- Every position before the end holds a word that decodes to a legal micro-operation (rules R48, R104). -/
theorem rom_decodes (upc : Fin 60) (h : upc.val < 59) :
    ∃ w, fetchUop upc = some w ∧ decodeUop w = .ok (romInstr upc) ∧ (romInstr upc).WellFormed := by
  have table : ∀ u : Fin 60, u.val < 59 →
      (match fetchUop u with
       | none => false
       | some w => decide (decodeUop w = .ok (romInstr u) ∧ (romInstr u).WellFormed)) = true := by
    decide
  have hu := table upc h
  cases hw : fetchUop upc with
  | none => rw [hw] at hu; cases hu
  | some w => rw [hw] at hu; exact ⟨w, rfl, of_decide_eq_true hu⟩

/-- Past the end of the sequence there is no word (rule R105). -/
theorem fetch_end (upc : Fin 60) (h : upc.val = 59) : fetchUop upc = none := by
  obtain rfl : upc = 59 := Fin.ext h
  decide

/-- A reset edge (rule R140). -/
theorem step_reset (s : State) (h : s.ports.rst = true) : step s = .next s.resetRegs.tick := by
  simp [step, h]

/-- A BUSY step before the end of the sequence runs the micro-operation at UPC (rule R105). -/
theorem step_uop (s : State) (hr : s.ports.rst = false) (hp : s.phase = .busy) (hu : s.upc.val < 59) :
    step s = andThen (exec (romInstr s.upc) s) State.nextUop := by
  obtain ⟨w, hf, hd, -⟩ := rom_decodes s.upc hu
  simp [step, hr, hp, uopOrBusy, hf, hd]

/-- A BUSY step at the end of the sequence is the busy or completion edge (rule R111). -/
theorem step_busy (s : State) (hr : s.ports.rst = false) (hp : s.phase = .busy) (hu : s.upc.val = 59) :
    step s = .next s.busyOrComplete.tick := by
  simp [step, hr, hp, uopOrBusy, fetch_end _ hu]

/-- An IDLE edge with a command on the ports (rule R110). -/
theorem step_command (s : State) (hr : s.ports.rst = false) (hp : s.phase = .idle) (hv : s.ports.inValid = true) :
    step s = andThen (exec (decodeCmd s.ports.cmd) s) State.tick := by
  simp [step, hr, hp, idleEdge, hv]

/-- An IDLE edge without a command (rule R112). -/
theorem step_hold (s : State) (hr : s.ports.rst = false) (hp : s.phase = .idle) (hv : s.ports.inValid = false) :
    step s = .next s.tick := by
  simp [step, hr, hp, idleEdge, hv]

/-- Everything a step can do: reset, a command, hold, a micro-operation, or the busy or completion edge (rule R123). -/
theorem step_cases (s : State) :
    (s.ports.rst = true ∧ step s = .next s.resetRegs.tick) ∨
    (s.ports.rst = false ∧ s.phase = .idle ∧ s.ports.inValid = true ∧
      step s = andThen (exec (decodeCmd s.ports.cmd) s) State.tick) ∨
    (s.ports.rst = false ∧ s.phase = .idle ∧ s.ports.inValid = false ∧ step s = .next s.tick) ∨
    (s.ports.rst = false ∧ s.phase = .busy ∧ s.upc.val < 59 ∧
      step s = andThen (exec (romInstr s.upc) s) State.nextUop) ∨
    (s.ports.rst = false ∧ s.phase = .busy ∧ s.upc.val = 59 ∧ step s = .next s.busyOrComplete.tick) := by
  cases hr : s.ports.rst
  · cases hp : s.phase
    · cases hv : s.ports.inValid
      · exact .inr (.inr (.inl ⟨rfl, rfl, rfl, step_hold s hr hp hv⟩))
      · exact .inr (.inl ⟨rfl, rfl, rfl, step_command s hr hp hv⟩)
    · by_cases hu : s.upc.val < 59
      · exact .inr (.inr (.inr (.inl ⟨rfl, rfl, hu, step_uop s hr hp hu⟩)))
      · have hu' : s.upc.val = 59 := by omega
        exact .inr (.inr (.inr (.inr ⟨rfl, rfl, hu', step_busy s hr hp hu'⟩)))
  · exact .inl ⟨rfl, step_reset s hr⟩

/-- The bits of the command vector on the ports (rule R41). -/
theorem getLsbD_cmd (i : Inputs) (j : Nat) :
    i.cmd.getLsbD j =
      if j < 64 then i.inData.getLsbD j
      else if j - 64 < 128 then i.inKey.getLsbD (j - 64) else (BitVec.ofBool i.inMode).getLsbD (j - 64 - 128) := by
  rw [Inputs.cmd, BitVec.getLsbD_append, BitVec.getLsbD_append]

/-- The command on the ports, by its mode bit (rules R41, R43). -/
theorem decodeCmd_ports (i : Inputs) :
    decodeCmd i.cmd =
      if i.inMode then .dec (keyHalf0 i.inKey) (keyHalf1 i.inKey) i.inData
      else .enc (keyHalf0 i.inKey) (keyHalf1 i.inKey) i.inData := by
  have mode : cmdMode i.cmd = i.inMode := by
    rw [cmdMode, getLsbD_cmd]; simp
  have k0 : cmdK0 i.cmd = keyHalf0 i.inKey := by
    apply BitVec.eq_of_getLsbD_eq
    intro j hj
    rw [cmdK0, keyHalf0, BitVec.getLsbD_extractLsb', BitVec.getLsbD_extractLsb', getLsbD_cmd,
      if_neg (by omega), if_pos (by omega), show 128 + j - 64 = 64 + j by omega]
  have k1 : cmdK1 i.cmd = keyHalf1 i.inKey := by
    apply BitVec.eq_of_getLsbD_eq
    intro j hj
    rw [cmdK1, keyHalf1, BitVec.getLsbD_extractLsb', BitVec.getLsbD_extractLsb', getLsbD_cmd,
      if_neg (by omega), if_pos (by omega), show 64 + j - 64 = 0 + j by omega]
  have d : cmdData i.cmd = i.inData := by
    apply BitVec.eq_of_getLsbD_eq
    intro j hj
    rw [cmdData, BitVec.getLsbD_extractLsb', getLsbD_cmd, if_pos (by omega)]
    simp [hj]
  cases hm : i.inMode <;> simp [decodeCmd, mode, k0, k1, d, hm]

end Sys2Proof.Machine
end

