-- ==== Sys2Proof/Tests/Slice0.lean ====
section
/-! SUPPORT. Tests with results from the spec's tables and vectors (30_encoding.md; 95_test_vectors.md), the smoke
test of WellFormed, and for each statement with hypotheses a concrete state that meets them together. -/

namespace Sys2Proof.Tests

-- One theorem after another: a thread for each of them at once can pass a memory limit on stacks.
set_option Elab.async false

open Sys2Proof.Machine

/-! ### Small states -/

/-- IDLE with the given ports at the coming edge. -/
def idleWith (p : Inputs) : State := { State.reset with inputs := [p] }

/-- BUSY at the given position with the given count, ST and mode, and no reset. -/
def busyAt (upc : Fin 60) (cnt : Nat) (st : Block) (mode : Mode) : State :=
  { State.reset with phase := .busy, upc := upc, cnt := cnt, st := st, mode := mode }

/-- IDLE with a result. -/
def withResult (res : Block) : State := { State.reset with ov := true, res := res }

/-- ENC of the key and block of S8 on the ports. -/
def encPorts : Inputs := commandPorts false 0x0123456789abcdef#64 0xfedcba9876543210#64 0x0123456789abcdef#64

/-- DEC of the key of S8 and its ciphertext on the ports. -/
def decPorts : Inputs := commandPorts true 0x0123456789abcdef#64 0xfedcba9876543210#64 0x603cd95fa72a8704#64

/-- A reset edge with a command presented. -/
def resetPorts : Inputs := { encPorts with rst := true }

/-- The state a DEC of vector V-KF starts the micro-sequence from. -/
def kflipState : State :=
  { State.reset with mode := .backward, st := 0x603cd95fa72a8704#64, k0r := 0xc1586f2dc3133b07#64,
                     k1r := 0xc18f6cd040d79d32#64 }

/-- Whether an outcome is a next state that passes. -/
def nextIs (o : Host.Outcome State Fault Refusal) (p : State → Bool) : Bool :=
  match o with
  | .next s => p s
  | .fault _ => false
  | .refused _ => false

/-- Whether an outcome is the refusal of a reserved micro-operation for the given reason. -/
def refusedFor (o : Host.Outcome State Fault Refusal) (r : Reserved) : Bool :=
  match o with
  | .next _ => false
  | .fault _ => false
  | .refused why => decide (why = .reservedUop r)

/-- The ST a micro-operation leaves from the given ST. -/
def stAfter (i : Instr) (st : Block) : Option Block := stOf (exec i (busyAt 0 1 st .forward))

/-! ### WellFormed: the ill-formed terms it refuses (rule R48) -/

theorem test_wf_xrc_11 : (Instr.xrc 11#4).illFormed = some .rcIndex ∧ ¬ (Instr.xrc 11#4).WellFormed := by decide
theorem test_wf_xrc_15 : (Instr.xrc 15#4).illFormed = some .rcIndex := by decide
theorem test_wf_xk_3 : (Instr.xk 3#2).illFormed = some .keySelect ∧ ¬ (Instr.xk 3#2).WellFormed := by decide
theorem test_wf_accepts : (Instr.xrc 10#4).WellFormed ∧ (Instr.xk 2#2).WellFormed ∧ Instr.kflip.WellFormed := by
  decide

/-! ### Decoding: words written out from rules R41, R45, R46 and R47, field by field -/

theorem test_decode_enc :
    decode (.cmd (0b0#1 ++ 0x0123456789abcdef#64 ++ 0xfedcba9876543210#64 ++ 0x00000000000000ff#64)) =
      .ok (.enc 0x0123456789abcdef#64 0xfedcba9876543210#64 0x00000000000000ff#64) := by decide +kernel
theorem test_decode_dec :
    decode (.cmd (0b1#1 ++ 0x0123456789abcdef#64 ++ 0xfedcba9876543210#64 ++ 0x00000000000000ff#64)) =
      .ok (.dec 0x0123456789abcdef#64 0xfedcba9876543210#64 0x00000000000000ff#64) := by decide +kernel
theorem test_decode_sl : decode (.uop 0b000100000000#12) = .ok .sl := by decide
theorem test_decode_sli : decode (.uop 0b001000000000#12) = .ok .sli := by decide
theorem test_decode_ml : decode (.uop 0b001100000000#12) = .ok .ml := by decide
theorem test_decode_sr : decode (.uop 0b010000000000#12) = .ok .sr := by decide
theorem test_decode_sri : decode (.uop 0b010100000000#12) = .ok .sri := by decide
theorem test_decode_xrc : decode (.uop 0b011000000000#12) = .ok (.xrc 0#4) ∧
    decode (.uop 0b011000001010#12) = .ok (.xrc 10#4) := by decide
theorem test_decode_xk : decode (.uop 0b011100000000#12) = .ok (.xk 0#2) ∧
    decode (.uop 0b011100000001#12) = .ok (.xk 1#2) ∧ decode (.uop 0b011100000010#12) = .ok (.xk 2#2) := by decide
theorem test_decode_kflip : decode (.uop 0b100000000000#12) = .ok .kflip := by decide

/-! ### Reserved words, refused by the clause of rule R48 each breaks -/

theorem test_reserved_opcodes : decode (.uop 0x000#12) = .error .opcode ∧ decode (.uop 0x900#12) = .error .opcode ∧
    decode (.uop 0xf00#12) = .error .opcode := by decide
theorem test_reserved_z : decode (.uop 0x110#12) = .error .zField ∧ decode (.uop 0x680#12) = .error .zField := by decide
theorem test_reserved_arg : decode (.uop 0x101#12) = .error .argNotZero ∧
    decode (.uop 0x808#12) = .error .argNotZero := by decide
theorem test_reserved_xrc : decode (.uop 0x60b#12) = .error .rcIndex ∧ decode (.uop 0x60f#12) = .error .rcIndex := by
  decide
theorem test_reserved_xk : decode (.uop 0x703#12) = .error .keySelect ∧
    decode (.uop 0x704#12) = .error .keyHighBits := by decide

/-! ### The table's rows as the host numbers them -/

theorem test_table_uop_row : decodeTableWord 16 0x60a = some (.xrc 10#4) ∧ decodeTableWord 16 0x000 = none := by decide
theorem test_table_cmd_row : decodeTableWord 200 (2 ^ 192 + 2 ^ 128 + 2 ^ 64 + 3) = some (.dec 1#64 1#64 3#64) := by
  decide +kernel
theorem test_rows_do_not_overlap :
    ([(0x100, 0xfff), (0x200, 0xfff), (0x300, 0xfff), (0x400, 0xfff), (0x500, 0xfff), (0x600, 0xff0),
      (0x700, 0xffc), (0x800, 0xfff)] : List (UopWord × UopWord)).Pairwise
      fun a b => a.1 &&& a.2 &&& b.2 ≠ b.1 &&& a.2 &&& b.2 := by decide

/-! ### One micro-operation: the rows of 95_test_vectors.md section 2.2 -/

theorem test_sl : stAfter .sl 0xfedcba9876543210#64 = some 0x4d5e087619ca23fb#64 := by decide +kernel
theorem test_sl_ones : stAfter .sl 0xffffffffffffffff#64 = some 0x4444444444444444#64 := by decide +kernel
theorem test_sli : stAfter .sli 0xfedcba9876543210#64 = some 0x1ce5046a98df237b#64 := by decide +kernel
theorem test_ml : stAfter .ml 0x0123456789abcdef#64 = some 0x3012456789abfcde#64 := by decide +kernel
theorem test_ml_group2 : stAfter .ml 0x0000000080000000#64 = some 0x0000000088800000#64 := by decide +kernel
theorem test_sr : stAfter .sr 0xfedcba9876543210#64 = some 0xfa50b61c72d83e94#64 := by decide +kernel
theorem test_sr_gather : stAfter .sr 0xffff000000000000#64 = some 0xf000000f00f00f00#64 := by decide +kernel
theorem test_sri : stAfter .sri 0xfedcba9876543210#64 = some 0xf258be147ad0369c#64 := by decide +kernel
theorem test_xrc : stAfter (.xrc 1#4) 0xbbbbbbbbbbbbbbbb#64 = some 0xa8a23195b8cbc8ff#64 := by decide
theorem test_xrc_reserved : refusedFor (exec (.xrc 11#4) State.reset) .rcIndex = true := by decide
theorem test_xk_k1b : stAfter (.xk 2#2) 0#64 = some 0x3f84d5b5b5470917#64 := by decide
theorem test_xk_reserved : refusedFor (exec (.xk 3#2) State.reset) .keySelect = true := by decide
theorem test_kflip : nextIs (exec .kflip kflipState) (fun t =>
    decide (t.k0r = 0x3e70932fbf2862cd#64 ∧ t.k1r = 0x3ea790d23cecc4f8#64 ∧ t.st = kflipState.st)) = true := by decide
theorem test_kflip_encrypt : exec .kflip { kflipState with mode := .forward } =
    .next { kflipState with mode := .forward } := rfl

/-! ### One edge: rules R110, R111, R112, R123 and R140 on the states of programs P2 and P4 -/

theorem test_enc : nextIs (step (idleWith encPorts)) (fun t => decide (t.phase = .busy ∧ t.mode = .forward ∧
    t.k0r = 0x0123456789abcdef#64 ∧ t.k1r = 0xfedcba9876543210#64 ∧ t.st = 0x0123456789abcdef#64 ∧
    t.cnt = 1 ∧ t.ov = false)) = true := by decide
theorem test_dec : nextIs (step (idleWith decPorts)) (fun t => decide (t.phase = .busy ∧ t.mode = .backward ∧
    t.k0r = 0xc1586f2dc3133b07#64 ∧ t.k1r = 0xc18f6cd040d79d32#64 ∧ t.st = 0x603cd95fa72a8704#64)) = true := by decide
theorem test_completion : nextIs (step (busyAt 59 1 0x0125fc7359441690#64 .forward)) (fun t =>
    decide (t.phase = .idle ∧ t.ov = true ∧ t.res = 0x0125fc7359441690#64)) = true := by decide
theorem test_reset_wins_over_completion :
    nextIs (step { busyAt 59 1 0#64 .forward with inputs := [resetPorts] }) (fun t =>
      decide (t.phase = .idle ∧ t.ov = false)) = true := by decide
theorem test_last_uop : nextIs (step { busyAt 58 1 0x3ea129c6ec031f87#64 .forward with k1r := 0#64 }) (fun t =>
    decide (t.upc = 59 ∧ t.st = 0x0125fc7359441690#64)) = true := by decide

/-! ### withFetchWord: the very next step runs the word -/

theorem test_fetch_uop : nextIs (step (State.reset.withFetchWord 16 0x100)) (fun t =>
    decide (t.st = 0xbbbbbbbbbbbbbbbb#64)) = true := by decide +kernel
theorem test_fetch_cmd : nextIs (step (State.reset.withFetchWord 200 (2 ^ 128 + 7))) (fun t =>
    decide (t.phase = .busy ∧ t.k0r = 1#64 ∧ t.st = 7#64)) = true := by decide

/-! ### Witnesses: a concrete state for the hypotheses of each statement, one for each clause -/

theorem test_witness_ModeBitSelectsCommand : (0#193).getLsbD 192 = false ∧
    (1#1 ++ 0#192).getLsbD 192 = true := by decide +kernel
theorem test_witness_UopWordsDecodeByOpcodeMap :
    (10#4).toNat ≤ 10 ∧ 2#2 ≠ 3#2 ∧ 0x702#12 ∈ microRom ∧ (∃ r, decode (.uop 0x60b#12) = .error r) := by
  exact ⟨by decide, by decide, by decide, _, rfl⟩
theorem test_witness_DecodeAfterEncode : (Instr.dec 1#64 2#64 3#64).WellFormed ∧ (Instr.xrc 10#4).WellFormed ∧
    (Instr.xk 2#2).WellFormed := by decide
theorem test_witness_EncodeAfterDecode : decode (.cmd 0#193) = .ok (.enc 0#64 0#64 0#64) ∧
    decode (.uop 0x60a#12) = .ok (.xrc 10#4) := by decide +kernel
theorem test_witness_NibbleWriteLaws : (59 : Nat) < 60 - 4 * (0 : Fin 16).val ∧ 64 - 4 * (15 : Fin 16).val ≤ 4 := by
  decide
theorem test_witness_DecryptionKeyTwice : { defaultTables with alpha := 0#64, beta := 0#64 }.alpha =
    { defaultTables with alpha := 0#64, beta := 0#64 }.beta := rfl
theorem test_witness_SrGathersNibbles :
    ∀ i j : Fin 16, nib (busyAt 0 1 0x1111111111111111#64 .forward).st i =
      nib (busyAt 0 1 0x1111111111111111#64 .forward).st j := by decide +kernel
theorem test_witness_StandardPatterns : defaultTables.StandardPatterns := by decide
theorem test_witness_LayersInvertEachOther : State.reset.tables.SboxInverse ∧ State.reset.tables.ShiftInverse := by
  decide
theorem test_witness_XrcInjectsTheConstant : (0#4).toNat < 11 ∧ (10#4).toNat < 11 ∧
    State.reset.tables.rc.get 0 = 0#64 ∧ 11 ≤ (11#4).toNat ∧ 11 ≤ (15#4).toNat := by decide
theorem test_witness_XkWhitensWithTheKey : State.reset.k0r = 0#64 ∧
    { State.reset with k0r := 0x0123456789abcdef#64 }.k0r = 0x0123456789abcdef#64 ∧ State.reset.st = 0#64 ∧
    2#2 ≠ 3#2 := by decide
theorem test_witness_KflipFlipsBothKeys : kflipState.mode = .backward ∧ State.reset.mode = .forward ∧
    (busyAt 30 1 0#64 .backward).mode = .backward ∧ (busyAt 30 1 0#64 .backward).tables = defaultTables ∧
    (busyAt 30 1 0#64 .backward).k0r = 0#64 ∧ (busyAt 30 1 0#64 .backward).k1r = 0#64 := by decide
theorem test_witness_KflipPlacementVector : kflipState.tables = defaultTables ∧ kflipState.mode = .backward ∧
    kflipState.st = 0x603cd95fa72a8704#64 ∧ kflipState.k0r = 0xc1586f2dc3133b07#64 ∧
    kflipState.k1r = 0xc18f6cd040d79d32#64 := by decide
theorem test_witness_UopsWriteOnlyCipherRegisters : encode .kflip = .uop 0x800#12 ∧
    exec .kflip kflipState = .next kflipState.flipKeys ∧ kflipState.flipKeys.k0r ≠ kflipState.k0r := by
  exact ⟨by decide, rfl, by decide⟩
theorem test_witness_RoundsByTheirUops :
    (busyAt 2 1 0#64 .forward).phase = .busy ∧ (busyAt 2 1 0#64 .forward).ports.rst = false ∧
    (busyAt 2 1 0#64 .forward).upc.val = 5 * (0 : Fin 5).val + 2 ∧
    (busyAt 22 1 0#64 .forward).upc.val = 5 * (4 : Fin 5).val + 2 ∧
    (busyAt 27 1 0#64 .forward).upc.val = 27 ∧
    (busyAt 33 1 0#64 .backward).upc.val = 5 * (0 : Fin 5).val + 33 ∧
    (busyAt 53 1 0#64 .backward).upc.val = 5 * (4 : Fin 5).val + 33 := by decide
theorem test_witness_MiddleByItsUops_places : (0 : Fin 59).val ≤ 28 ∧ (28 : Fin 59).val ≤ 28 ∧ 31 ≤ (31 : Fin 59).val ∧
    31 ≤ (58 : Fin 59).val := by decide
theorem test_witness_LawfulTables : defaultTables.Lawful := by decide
theorem test_witness_MicroSequenceComputesCore : (busyAt 0 1 0#64 .forward).phase = .busy ∧
    (busyAt 0 1 0#64 .forward).ports.rst = false ∧ (busyAt 0 1 0#64 .forward).upc.val = 0 := by decide
theorem test_witness_EncAndDecRunToTheirResult : State.reset.phase = .idle ∧ State.reset.ports.rst = false ∧
    State.reset.latency.Lawful ∧ [quietPorts].length = State.reset.latency.enc ∧
    [quietPorts].length = State.reset.latency.dec ∧ NoReset [quietPorts] ∧
    (busyAt 0 1 0#64 .forward).inReady = false ∧ (idleWith resetPorts).inReady = false := by
  exact ⟨rfl, rfl, by decide, rfl, rfl, by simp [NoReset, quietPorts], by decide, by decide⟩
theorem test_witness_AcceptEdgeLoadsTheCommand : (idleWith decPorts).phase = .idle ∧
    (idleWith decPorts).ports.rst = false ∧ (idleWith decPorts).ports.inValid = true ∧
    (idleWith decPorts).ports.inMode = true ∧ (idleWith encPorts).ports.inMode = false ∧
    NoReset [encPorts] ∧ NoReset [decPorts] ∧ [encPorts].length = [decPorts].length ∧
    nextIs (step (idleWith decPorts)) (fun t => decide ([encPorts].length ≤ t.cnt)) = true := by
  exact ⟨rfl, rfl, rfl, rfl, rfl, by simp [NoReset, encPorts, commandPorts],
    by simp [NoReset, decPorts, commandPorts], rfl, by decide⟩
theorem test_witness_BusyEdgesCountDownAndComplete : (busyAt 0 2 0#64 .forward).phase = .busy ∧
    (busyAt 0 2 0#64 .forward).upc.val = 0 ∧ 1 ≤ (busyAt 0 2 0#64 .forward).cnt ∧
    [encPorts, quietPorts].length = (busyAt 0 2 0#64 .forward).cnt ∧ NoReset [encPorts, quietPorts] := by
  exact ⟨rfl, rfl, by decide, rfl, by simp [NoReset, encPorts, commandPorts, quietPorts]⟩
theorem test_witness_HoldEdgeChangesNothing : (idleWith quietPorts).phase = .idle ∧
    (idleWith quietPorts).ports.rst = false ∧ (idleWith quietPorts).ports.inValid = false := by decide
theorem test_witness_CommandsAreIgnoredWhileNotReady : encPorts.rst = decPorts.rst ∧
    (busyAt 7 1 0#64 .forward).readyAt encPorts.rst = false ∧ State.reset.readyAt resetPorts.rst = false ∧
    (busyAt 7 1 0#64 .forward).inReady = false := by decide
theorem test_witness_HostObservesOneCommand : State.reset.phase = .idle ∧ State.reset.latency.Lawful ∧
    decPorts.rst = false ∧ decPorts.inValid = true ∧ NoReset [encPorts] ∧
    [encPorts].length = latencyOf State.reset.latency (modeOf decPorts.inMode) ∧ Quiet [quietPorts, quietPorts] := by
  exact ⟨rfl, by decide, rfl, rfl, by simp [NoReset, encPorts, commandPorts], rfl, by simp [Quiet, quietPorts]⟩
theorem test_witness_ResultHeldUntilTheNextCommand : (withResult 1#64).phase = .idle ∧ (withResult 1#64).ov = true ∧
    Quiet [quietPorts] ∧ encPorts.rst = false ∧ encPorts.inValid = true := by
  exact ⟨rfl, rfl, by simp [Quiet, quietPorts], rfl, rfl⟩
theorem test_witness_ResetEdgeFromEveryState :
    ({ busyAt 59 1 0#64 .forward with inputs := [resetPorts] } : State).ports.rst = true ∧
    (idleWith resetPorts).ports.rst = true := by decide
theorem test_witness_ResetAbortsTheCommand : (busyAt 59 1 0#64 .forward).phase = .busy ∧
    (busyAt 0 3 0#64 .forward).phase = .busy ∧ resetPorts.rst = true ∧ Quiet [quietPorts] := by
  exact ⟨rfl, rfl, rfl, by simp [Quiet, quietPorts]⟩
theorem test_witness_PowerUpIsReadyAfterReset : resetPorts.rst = true ∧ ∀ i ∈ [resetPorts], i.rst = true := by
  exact ⟨rfl, by simp [resetPorts]⟩
theorem test_witness_EdgePriority : resetPorts.rst = true ∧
    (encPorts.rst = false ∧ State.reset.phase = .idle ∧ encPorts.inValid = true) ∧
    (encPorts.rst = false ∧ (busyAt 3 2 0#64 .forward).phase = .busy ∧ 1 < (busyAt 3 2 0#64 .forward).cnt) ∧
    (encPorts.rst = false ∧ (busyAt 3 1 0#64 .forward).phase = .busy ∧ (busyAt 3 1 0#64 .forward).cnt = 1) ∧
    (quietPorts.rst = false ∧ State.reset.phase = .idle ∧ quietPorts.inValid = false) := by decide
theorem test_witness_OnlyCompletionSetsOutputValid :
    nextIs (step (busyAt 59 1 1#64 .forward)) (fun t => decide
      ((busyAt 59 1 1#64 .forward).ov = false ∧ t.ov = true ∧ t.res ≠ (busyAt 59 1 1#64 .forward).res)) = true ∧
    nextIs (step { withResult 1#64 with inputs := [encPorts] }) (fun t => decide (t.ov = false)) = true ∧
    nextIs (step { withResult 1#64 with inputs := [resetPorts] }) (fun t => decide (t.ov = false)) = true := by decide
theorem test_witness_TablesNeverChange : step State.reset = .next State.reset.tick ∧
    exec .kflip kflipState = .next kflipState.flipKeys := ⟨rfl, rfl⟩
theorem test_witness_LatencyNeverChanges : step (idleWith resetPorts) = .next (idleWith resetPorts).resetRegs.tick ∧
    exec (.xk 2#2) State.reset = .next (State.reset.xorSt (State.reset.k1r ^^^ State.reset.tables.beta)) := ⟨rfl, rfl⟩
theorem test_witness_NothingCanFail : (Instr.xk 2#2).WellFormed ∧ (Instr.xk 3#2).illFormed = some .keySelect ∧
    (Instr.xrc 11#4).illFormed = some .rcIndex := by decide
theorem test_witness_StepRunsTheMicroOperation : (busyAt 58 1 0#64 .forward).phase = .busy ∧
    (busyAt 58 1 0#64 .forward).ports.rst = false ∧ microRom[(busyAt 58 1 0#64 .forward).upc.val]? = some 0x702#12 ∧
    decode (.uop 0x702#12) = .ok (.xk 2#2) ∧ (busyAt 58 1 0#64 .forward).upc.val < 59 ∧
    (busyAt 59 1 0#64 .forward).ports.rst = false ∧ (busyAt 59 1 0#64 .forward).upc.val = 59 := by decide
theorem test_witness_StepRunsThePresentedCommand : (idleWith encPorts).phase = .idle ∧
    (idleWith encPorts).ports.rst = false ∧ (idleWith encPorts).ports.inValid = true ∧
    decode (.cmd (BitVec.ofBool encPorts.inMode ++ encPorts.inKey ++ encPorts.inData)) =
      .ok (.enc 0x0123456789abcdef#64 0xfedcba9876543210#64 0x0123456789abcdef#64) ∧
    exec (.enc 0x0123456789abcdef#64 0xfedcba9876543210#64 0x0123456789abcdef#64) (idleWith encPorts) =
      .next ((idleWith encPorts).accept .forward 0x0123456789abcdef#64 0xfedcba9876543210#64
        0x0123456789abcdef#64) := by
  exact ⟨rfl, rfl, rfl, by decide +kernel, rfl⟩
theorem test_witness_CountStaysInRange : Inv (busyAt 59 1 0#64 .forward) ∧
    step (busyAt 59 1 0#64 .forward) = .next (busyAt 59 1 0#64 .forward).complete.tick :=
  ⟨⟨by decide, fun _ => by decide, fun _ => rfl⟩, rfl⟩
theorem test_witness_RefinesTheSpecStep : Simulates (busyAt 0 2 1#64 .backward) (busyAt 0 2 1#64 .backward) ∧
    Simulates State.reset State.reset :=
  ⟨⟨rfl, rfl, rfl, rfl, rfl, rfl, fun _ => ⟨rfl, rfl, .inl ⟨rfl, rfl, rfl, rfl⟩⟩⟩,
    ⟨rfl, rfl, rfl, rfl, rfl, rfl, fun h => by cases h⟩⟩
theorem test_witness_HiddenStateNeverShows :
    Indistinguishable State.reset { State.reset with st := 1#64, res := 2#64, k0r := 3#64, cnt := 4, upc := 5, edges := 6 } :=
  ⟨rfl, rfl, fun h => (by cases h), rfl, rfl, rfl, fun h => (by cases h)⟩
theorem test_witness_HiddenStateNeverShows_busy : (busyAt 3 2 1#64 .forward).phase = .busy ∧
    1 < (busyAt 3 2 1#64 .forward).cnt ∧ resetPorts.rst = true ∧ quietPorts.rst = false := by decide
theorem test_witness_StatusPortsShowTheState : State.reset.readyAt false = true ∧ (withResult 1#64).ov = true := by
  decide
theorem test_witness_HostLinesDriveTheirEdges : State.reset.phase = .idle ∧ (busyAt 0 1 0#64 .forward).phase = .busy ∧
    (withResult 1#64).ov = true ∧ State.reset.ov = false ∧ resetPorts.rst = true := by decide

end Sys2Proof.Tests
end

section
/-! PROOF. The nibble view of a block is the block (rule R6). -/

namespace Sys2Proof.Machine

/-- Bit k of a block is bit k mod 4 of nibble 15 - k/4: every bit lies in some nibble (rule R6). -/
theorem getLsbD_eq_getLsbD_nib (b : Block) {k : Nat} (hk : k < 64) :
    b.getLsbD k = (nib b ⟨15 - k / 4, by omega⟩).getLsbD (k % 4) := by
  have hlt : k % 4 < 4 := Nat.mod_lt k (by decide)
  have hpos : 60 - 4 * (15 - k / 4) + k % 4 = k := by omega
  rw [getLsbD_nib, hpos, decide_eq_true hlt, Bool.true_and]

/-- Blocks with the same 16 nibbles are equal. -/
theorem block_ext_nib {a b : Block} (h : ∀ i, nib a i = nib b i) : a = b :=
  BitVec.eq_of_getLsbD_eq fun k hk => by
    rw [getLsbD_eq_getLsbD_nib a hk, getLsbD_eq_getLsbD_nib b hk, h]

/-- The nibbles of a block, put together in order, are the block (rule R6). -/
theorem fromNibbles_nib (x : Block) : fromNibbles (nib x) = x :=
  block_ext_nib (nib_fromNibbles (nib x))

/-- Appending a nibble below a word is one step of base-16 evaluation. -/
theorem toNat_append_nibble {w : Nat} (x : BitVec w) (n : Nibble) :
    (x ++ n).toNat = 16 * x.toNat + n.toNat := by
  rw [BitVec.toNat_append, ← Nat.shiftLeft_add_eq_or_of_lt n.isLt, Nat.shiftLeft_eq, Nat.mul_comm]

/-- The number a block built from nibbles denotes has those nibbles as its base-16 digits, nibble 0 first (rule R6). -/
theorem toNat_fromNibbles (f : Fin 16 → Nibble) :
    (fromNibbles f).toNat = Fin.foldl 16 (fun acc i => 16 * acc + (f i).toNat) 0 := by
  simp only [fromNibbles, toNat_append_nibble, Fin.foldl_succ, Fin.foldl_zero,
    Nat.mul_zero, Nat.zero_add]
  rfl

/-- Settles O7: bits through `getLsbD_nib`, reassembly through `fromNibbles_nib`, the order of the nibbles through
`toNat_fromNibbles`. -/
theorem nibbleViewIsTheBlock : Obligations.NibbleViewIsTheBlock := by
  refine ⟨fun x i j => ?_, fromNibbles_nib, toNat_fromNibbles⟩
  rw [getLsbD_nib, decide_eq_true j.isLt, Bool.true_and]

end Sys2Proof.Machine
end

section
/-! PROOF. What a meaning can do to the state, said once, and the constant tables, which no step writes (rule R18). -/

namespace Sys2Proof.Machine

/-- A command, accepted or ignored, leaves the tables (rules R18, R110, R113). -/
@[simp] theorem offer_tables (s : State) (m : Mode) (k0 k1 d : Block) : (s.offer m k0 k1 d).tables = s.tables := by
  cases h : s.inReady
  · rw [offer_of_not_ready s m k0 k1 d h]
  · rw [offer_of_ready s m k0 k1 d h, accept_tables]

/-- The busy and the completion step leave the tables (rules R18, R111). -/
@[simp] theorem busyOrComplete_tables (s : State) : s.busyOrComplete.tables = s.tables := by
  obtain ⟨-, h⟩ | ⟨-, h⟩ := busyOrComplete_cases s
  · rw [h]
  · rw [h, complete_tables]

/-- XRC answers a next state exactly for an index that names a constant, and XORs that constant into ST (rule R80). -/
theorem execXrc_eq_next (i : BitVec 4) (s t : State) :
    execXrc i s = .next t ↔ ∃ v, rcOperand s.tables i = some v ∧ s.xorSt v = t := by
  rw [execXrc]
  cases rcOperand s.tables i <;> simp

/-- XK answers a next state exactly for a selector that names a key, and XORs that key into ST (rule R81). -/
theorem execXk_eq_next (sel : BitVec 2) (s t : State) :
    execXk sel s = .next t ↔ ∃ v, keyOperand s sel = some v ∧ s.xorSt v = t := by
  rw [execXk]
  cases keyOperand s sel <;> simp

/-- Everything a meaning can do to the state: offer a command, write ST, or flip the working keys
(rules R71 to R82, R107, R108). -/
theorem exec_next_cases {i : Instr} {s t : State} (h : exec i s = .next t) :
    (∃ m k0 k1 d, s.offer m k0 k1 d = t) ∨ (∃ v, s.setSt v = t) ∨ (i = .kflip ∧ s.flipKeys = t) := by
  cases i with
  | enc k0 k1 d => exact .inl ⟨.forward, k0, k1, d, Host.Outcome.next.inj h⟩
  | dec k0 k1 d => exact .inl ⟨.backward, k0, k1, d, Host.Outcome.next.inj h⟩
  | sl => exact .inr (.inl ⟨_, Host.Outcome.next.inj h⟩)
  | sli => exact .inr (.inl ⟨_, Host.Outcome.next.inj h⟩)
  | ml => exact .inr (.inl ⟨_, Host.Outcome.next.inj h⟩)
  | sr => exact .inr (.inl ⟨_, Host.Outcome.next.inj h⟩)
  | sri => exact .inr (.inl ⟨_, Host.Outcome.next.inj h⟩)
  | xrc i =>
    obtain ⟨v, -, ht⟩ := (execXrc_eq_next i s t).mp h
    exact .inr (.inl ⟨s.st ^^^ v, ht⟩)
  | xk sel =>
    obtain ⟨v, -, ht⟩ := (execXk_eq_next sel s t).mp h
    exact .inr (.inl ⟨s.st ^^^ v, ht⟩)
  | kflip => exact .inr (.inr ⟨rfl, Host.Outcome.next.inj h⟩)

/-- No meaning of an instruction writes the tables (rule R18). -/
theorem exec_tables {i : Instr} {s t : State} (h : exec i s = .next t) : t.tables = s.tables := by
  obtain ⟨m, k0, k1, d, rfl⟩ | ⟨v, rfl⟩ | ⟨-, rfl⟩ := exec_next_cases h
  · exact offer_tables s m k0 k1 d
  · exact setSt_tables s v
  · exact flipKeys_tables s

/-- What a step adds to a meaning leaves the tables when the addition does. -/
theorem andThen_exec_tables {i : Instr} {s t : State} {f : State → State} (hf : ∀ u, (f u).tables = u.tables)
    (h : andThen (exec i s) f = .next t) : t.tables = s.tables := by
  obtain ⟨u, hu, rfl⟩ := (andThen_eq_next _ f t).mp h
  rw [hf, exec_tables hu]

/-- No step writes the tables, a reset edge among them (rules R18, R140). -/
theorem step_tables {s t : State} (h : step s = .next t) : t.tables = s.tables := by
  obtain ⟨-, hs⟩ | ⟨-, -, -, hs⟩ | ⟨-, -, -, hs⟩ | ⟨-, -, -, hs⟩ | ⟨-, -, -, hs⟩ := step_cases s <;> rw [hs] at h
  · rw [← Host.Outcome.next.inj h, tick_tables, resetRegs_tables]
  · exact andThen_exec_tables tick_tables h
  · rw [← Host.Outcome.next.inj h, tick_tables]
  · exact andThen_exec_tables nextUop_tables h
  · rw [← Host.Outcome.next.inj h, tick_tables, busyOrComplete_tables]

/-- Settles O47: the step through `step_tables`, the meanings through `exec_tables`; the patterns after reset are those
of the default tables. -/
theorem tablesNeverChange : Obligations.TablesNeverChange :=
  ⟨fun _ _ => step_tables, fun _ _ _ => exec_tables, rfl⟩

end Sys2Proof.Machine
end

section
/-! PROOF. The CMD vector by its mode bit, the UOP word by the opcode map with the reserved words said once, and the
text of a micro-operation (rules R41 to R50). -/

namespace Sys2Proof

/-- A vector with mode bit 0 is ENC of its fields (rule R43). -/
theorem decodeCmd_of_mode_false {w : CmdWord} (h : cmdMode w = false) :
    decodeCmd w = .enc (cmdK0 w) (cmdK1 w) (cmdData w) := by
  simp [decodeCmd, h]

/-- A vector with mode bit 1 is DEC of its fields (rule R43). -/
theorem decodeCmd_of_mode_true {w : CmdWord} (h : cmdMode w = true) :
    decodeCmd w = .dec (cmdK0 w) (cmdK1 w) (cmdData w) := by
  simp [decodeCmd, h]

/-! ### The fields of a UOP word -/

/-- The three fields read back from a word built from an opcode and an operand (rule R45). -/
theorem uopFields_encodeUop (op arg : BitVec 4) :
    uopOp (encodeUop op arg) = op ∧ uopZ (encodeUop op arg) = 0#4 ∧ uopArg (encodeUop op arg) = arg := by
  refine ⟨?_, ?_, ?_⟩
  · calc (op ++ 0#4 ++ arg).extractLsb' 8 4
      _ = (op ++ 0#4).extractLsb' 4 4 := BitVec.extractLsb'_append_eq_of_le (by decide)
      _ = op.extractLsb' 0 4 := BitVec.extractLsb'_append_eq_of_le (by decide)
      _ = op := BitVec.extractLsb'_eq_self
  · calc (op ++ 0#4 ++ arg).extractLsb' 4 4
      _ = (op ++ 0#4).extractLsb' 0 4 := BitVec.extractLsb'_append_eq_of_le (by decide)
      _ = (0#4).extractLsb' 0 4 := BitVec.extractLsb'_append_eq_of_add_le (by decide)
      _ = 0#4 := BitVec.extractLsb'_eq_self
  · calc (op ++ 0#4 ++ arg).extractLsb' 0 4
      _ = arg.extractLsb' 0 4 := BitVec.extractLsb'_append_eq_of_add_le (by decide)
      _ = arg := BitVec.extractLsb'_eq_self

/-- A word with z = 0000 decodes by the opcode map (rules R45, R46). -/
theorem decodeUop_encodeUop (op arg : BitVec 4) : decodeUop (encodeUop op arg) = decodeOp op arg := by
  obtain ⟨hop, hz, harg⟩ := uopFields_encodeUop op arg
  rw [decodeUop, if_pos hz, hop, harg]

/-- U[3:2] is the upper half of the field arg (rule R45). -/
theorem uopArg_high (w : UopWord) : (uopArg w).extractLsb' 2 2 = w.extractLsb 3 2 :=
  BitVec.extractLsb'_extractLsb'_of_le (by decide)

/-- U[1:0] is the lower half of the field arg (rule R45). -/
theorem uopArg_low (w : UopWord) : (uopArg w).extractLsb' 0 2 = w.extractLsb 1 0 :=
  BitVec.extractLsb'_extractLsb'_of_le (by decide)

/-! ### Which operands are legal and which reserved -/

/-- XRC takes the indexes 0 to 10 (rule R47). -/
theorem decodeXrc_of_le {arg : BitVec 4} (h : arg.toNat ≤ 10) : decodeXrc arg = .ok (.xrc arg) :=
  if_pos h

/-- XK takes the selectors 00, 01 and 10 with arg[3:2] = 00 (rule R47). -/
theorem decodeXk_of_ne {sel : BitVec 2} (h : sel ≠ 3#2) : decodeXk (sel.setWidth 4) = .ok (.xk sel) := by
  revert sel; decide

/-- A micro-operation without operand refuses every arg but 0000 (rule R48). -/
theorem decodePlain_error_iff (arg : BitVec 4) (i : Instr) :
    (∃ r, decodePlain arg i = .error r) ↔ arg ≠ 0#4 := by
  by_cases h : arg = 0#4 <;> simp [decodePlain, h]

/-- XRC refuses exactly the indexes 11 to 15 (rule R48). -/
theorem decodeXrc_error_iff (arg : BitVec 4) : (∃ r, decodeXrc arg = .error r) ↔ 11 ≤ arg.toNat := by
  rw [show 11 ≤ arg.toNat ↔ ¬ arg.toNat ≤ 10 from Nat.not_le.symm]
  by_cases h : arg.toNat ≤ 10 <;> simp [decodeXrc, h]

/-- XK refuses exactly the selector 11 and a nonzero arg[3:2] (rule R48). -/
theorem decodeXk_error_iff (arg : BitVec 4) :
    (∃ r, decodeXk arg = .error r) ↔ arg.extractLsb' 0 2 = 3#2 ∨ arg.extractLsb' 2 2 ≠ 0#2 := by
  by_cases hh : arg.extractLsb' 2 2 = 0#2
  · by_cases hs : arg.extractLsb' 0 2 = 3#2 <;> simp [decodeXk, hh, hs]
  · simp [decodeXk, hh]

/-- The opcode map refuses the opcodes 0 and 9 to 15, and under any other exactly the operands reserved there
(rules R46, R48). -/
theorem decodeOp_error_iff (op arg : BitVec 4) :
    (∃ r, decodeOp op arg = .error r) ↔
      op.toNat = 0 ∨ 9 ≤ op.toNat ∨ (op.toNat ∈ [1, 2, 3, 4, 5, 8] ∧ arg ≠ 0#4) ∨
      (op.toNat = 6 ∧ 11 ≤ arg.toNat) ∨
      (op.toNat = 7 ∧ (arg.extractLsb' 0 2 = 3#2 ∨ arg.extractLsb' 2 2 ≠ 0#2)) := by
  rw [decodeOp]
  split
  case h_6 h => rw [decodeXrc_error_iff]; simp [h]
  case h_7 h => rw [decodeXk_error_iff]; simp [h]
  case h_9 =>
    simp only [imp_false] at *
    have reserved : op.toNat = 0 ∨ 9 ≤ op.toNat := by omega
    simp only [Except.error.injEq, exists_eq', true_iff]
    exact reserved.imp_right .inl
  all_goals next h => rw [decodePlain_error_iff]; simp [h]

/-- A UOP word is refused exactly for a nonzero z or where the opcode map refuses it (rule R48). -/
theorem decodeUop_error_iff (w : UopWord) :
    (∃ r, decodeUop w = .error r) ↔ uopZ w ≠ 0#4 ∨ ∃ r, decodeOp (uopOp w) (uopArg w) = .error r := by
  by_cases h : uopZ w = 0#4 <;> simp [decodeUop, h]

end Sys2Proof

namespace Sys2Proof.Machine

/-- Every word of the fixed micro-sequence decodes (rules R48, R104). -/
theorem decodeUop_of_mem_microRom {w : UopWord} (hw : w ∈ microRom) : ∃ i, decodeUop w = .ok i := by
  obtain ⟨n, hn, rfl⟩ := List.mem_iff_getElem.mp hw
  have hlt : n < 59 := hn
  obtain ⟨v, hf, hd, -⟩ := rom_decodes ⟨n, by omega⟩ hlt
  obtain rfl : microRom[n] = v := Option.some.inj ((List.getElem?_eq_getElem hn).symm.trans hf)
  exact ⟨_, hd⟩

/-- Settles O3: the forms of XRC and XK through `decodeUop_encodeUop`, the reserved words through
`decodeUop_error_iff` and `decodeOp_error_iff`, the micro-sequence through `rom_decodes`. -/
theorem uopWordsDecodeByOpcodeMap : Obligations.UopWordsDecodeByOpcodeMap := by
  refine ⟨by decide, fun i hi => ?_, fun sel hsel => ?_, fun w => ?_, fun w => decodeUop_of_mem_microRom⟩
  · exact (decodeUop_encodeUop 6#4 i).trans (decodeXrc_of_le hi)
  · have word : 0b0111000000#10 ++ sel = encodeUop 7#4 (sel.setWidth 4) := by revert sel; decide
    rw [word]
    exact (decodeUop_encodeUop 7#4 _).trans (decodeXk_of_ne hsel)
  · rw [decode, decodeUop_error_iff, decodeOp_error_iff, uopArg_low, uopArg_high]
    exact or_left_comm.trans (or_congr_right or_left_comm)

/-- Settles O1: the mode bit through `decodeCmd_of_mode_false` and `decodeCmd_of_mode_true`. -/
theorem modeBitSelectsCommand : Obligations.ModeBitSelectsCommand :=
  fun _ => ⟨fun h => congrArg Except.ok (decodeCmd_of_mode_false h),
    fun h => congrArg Except.ok (decodeCmd_of_mode_true h)⟩

/-! ### The text of a micro-operation -/

/-- No two legal micro-operations have one text: the search for a legal micro-operation's text finds it (rule R50). -/
theorem find_uopText : ∀ i ∈ legalUops, legalUops.find? (fun j => uopText j == uopText i) = some i := by
  decide

/-- The text of a legal micro-operation assembles to its word (rule R50). -/
theorem assembleUop_of_uopText {i : Instr} {text : String} {w : UopWord} (hi : i ∈ legalUops)
    (ht : uopText i = some text) (hw : encode i = .uop w) : assembleUop text = some w := by
  have found := find_uopText i hi
  rw [ht] at found
  simp [assembleUop, found, hw]

/-- A text that no legal micro-operation has assembles to no word (rule R50). -/
theorem assembleUop_of_forall_ne {text : String} (h : ∀ i ∈ legalUops, uopText i ≠ some text) :
    assembleUop text = none := by
  have missing : legalUops.find? (fun i => uopText i == some text) = none := by
    simpa [List.find?_eq_none] using h
  simp [assembleUop, missing]

/-- The text of XRC with the index i in decimal assembles to 0x600 + i (rules R46, R47, R50). -/
theorem assembleUop_xrc (i : Fin 11) :
    assembleUop ("XRC " ++ toString i.val) = some (BitVec.ofNat 12 (0x600 + i.val)) := by
  have index : (BitVec.ofNat 4 i.val).toNat = i.val := by rw [BitVec.toNat_ofNat]; omega
  have legal : ∀ k : Fin 11, Instr.xrc (BitVec.ofNat 4 k.val) ∈ legalUops := by decide
  have word : ∀ k : Fin 11, encodeUop 0x6#4 (BitVec.ofNat 4 k.val) = BitVec.ofNat 12 (0x600 + k.val) := by decide
  refine assembleUop_of_uopText (legal i) ?_ (congrArg Encoded.uop (word i))
  rw [uopText, index, if_pos (by omega)]

/-- Settles O4: each text through `assembleUop_of_uopText`, the index 11 through `assembleUop_of_forall_ne`. -/
theorem assemblyTextEncodes : Obligations.AssemblyTextEncodes := by
  refine ⟨⟨?_, ?_, ?_, ?_, ?_, ?_⟩, ⟨?_, ?_, ?_⟩, ⟨assembleUop_xrc 7, ?_⟩, assembleUop_xrc⟩
  · exact assembleUop_of_uopText (i := .sl) (by decide) rfl rfl
  · exact assembleUop_of_uopText (i := .sli) (by decide) rfl rfl
  · exact assembleUop_of_uopText (i := .ml) (by decide) rfl rfl
  · exact assembleUop_of_uopText (i := .sr) (by decide) rfl rfl
  · exact assembleUop_of_uopText (i := .sri) (by decide) rfl rfl
  · exact assembleUop_of_uopText (i := .kflip) (by decide) rfl rfl
  · exact assembleUop_of_uopText (i := .xk 0#2) (by decide) rfl rfl
  · exact assembleUop_of_uopText (i := .xk 1#2) (by decide) rfl rfl
  · exact assembleUop_of_uopText (i := .xk 2#2) (by decide) rfl rfl
  · exact assembleUop_of_forall_ne (by decide)

end Sys2Proof.Machine
end

section
/-! PROOF. Writing one nibble, bit by bit (rule R61); the decryption-key transform as a swap of the key halves and one XOR
on each (rule R65). -/

namespace Sys2Proof.Machine

/-! ### Writing one nibble -/

/-- The mask 0xF that `setNib` shifts into place holds the four lowest bits. -/
theorem getLsbD_nibbleMask (k : Nat) : (0xf#64).getLsbD k = decide (k < 4) := by
  have mask : 0xf#64 = (BitVec.allOnes 4).setWidth 64 := by decide
  rw [mask, BitVec.getLsbD_setWidth, BitVec.getLsbD_allOnes, ← Bool.decide_and, decide_eq_decide]
  omega

/-- In the field [63-4i : 60-4i] the result of a nibble write has the bits of the new nibble (rule R61). -/
theorem getLsbD_setNib_inside (b : Block) (i : Fin 16) (v : Nibble) {j : Nat} (hj : j < 4) :
    (setNib b i v).getLsbD (60 - 4 * i.val + j) = v.getLsbD j := by
  have inBlock : 60 - 4 * i.val + j < 64 := by omega
  simp [setNib, getLsbD_nibbleMask, inBlock, hj]

/-- Outside the field [63-4i : 60-4i] the result of a nibble write has the bits of the block (rule R61): below it
neither shifted word reaches, above it both have only zeros. -/
theorem getLsbD_setNib_outside (b : Block) (i : Fin 16) (v : Nibble) {j : Nat}
    (hj : j < 60 - 4 * i.val ∨ 64 - 4 * i.val ≤ j) : (setNib b i v).getLsbD j = b.getLsbD j := by
  have inBlock : b.getLsbD j = true → j < 64 := BitVec.lt_of_getLsbD
  obtain below | above := hj
  · simpa [setNib, below] using inBlock
  · have pastField : 4 ≤ j - (60 - 4 * i.val) := by omega
    have vZero : v.getLsbD (j - (60 - 4 * i.val)) = false := BitVec.getLsbD_of_ge v _ pastField
    simpa [setNib, getLsbD_nibbleMask, Nat.not_lt.mpr pastField, vZero] using inBlock

/-- A written nibble reads back (rule R61). -/
theorem nib_setNib_same (b : Block) (i : Fin 16) (v : Nibble) : nib (setNib b i v) i = v :=
  nibble_ext fun j hj => by
    rw [getLsbD_nib, decide_eq_true hj, Bool.true_and, getLsbD_setNib_inside b i v hj]

/-- Writing a nibble leaves every other nibble: its field lies outside the one written (rule R61). -/
theorem nib_setNib_of_ne (b : Block) {i k : Fin 16} (v : Nibble) (h : k ≠ i) : nib (setNib b i v) k = nib b k :=
  nibble_ext fun j hj => by
    have apart : k.val ≠ i.val := Fin.val_ne_of_ne h
    rw [getLsbD_nib, getLsbD_nib, getLsbD_setNib_outside b i v (by omega)]

/-- Writing a nibble's own value changes nothing (rule R61). -/
theorem setNib_nib_self (b : Block) (i : Fin 16) : setNib b i (nib b i) = b :=
  block_ext_nib fun k => by
    by_cases h : k = i
    · rw [h, nib_setNib_same]
    · exact nib_setNib_of_ne b _ h

/-- Settles O8: every bit of the result lies in the field (`getLsbD_setNib_inside`, from which the two laws) or outside
it (`getLsbD_setNib_outside`). -/
theorem nibbleWriteLaws : Obligations.NibbleWriteLaws :=
  ⟨nib_setNib_same, setNib_nib_self, fun b i v _ => getLsbD_setNib_outside b i v, by decide⟩

/-! ### The decryption-key transform -/

/-- XOR with a constant undoes itself, so it is a bijection of blocks. -/
theorem bijective_xor_const (c : Block) : Function.Bijective fun x : Block => x ^^^ c :=
  Function.Involutive.bijective fun x => by rw [BitVec.xor_assoc, BitVec.xor_self, BitVec.xor_zero]

/-- The decryption-key transform swaps the key halves, then XORs BETA into one and ALPHA into the other: it is a
bijection of 128-bit keys (rule R65). -/
theorem bijective_decKey (t : Tables) : Function.Bijective fun k : Block × Block => decKey t k.1 k.2 :=
  ((bijective_xor_const t.beta).prodMap (bijective_xor_const t.alpha)).comp Prod.swap_bijective

/-- Settles O9: the two halves are the definition of `decKey`, the bijection is `bijective_decKey`. -/
theorem decryptionKeyTransform : Obligations.DecryptionKeyTransform :=
  ⟨fun _ _ _ => rfl, bijective_decKey, by decide⟩

end Sys2Proof.Machine
end

section
/-! PROOF. The micro-operations on ST: the S-layers and shift-rows nibble by nibble (rules R71 to R75), the M-layer group
by group (rules R76 to R78), and the XOR of a constant or a key (rules R80, R81); the key flip (rule R82). -/

namespace Sys2Proof.Machine

/-! ### Writes that change nothing -/

/-- Writing ST with its own value changes nothing. -/
@[simp] theorem setSt_st_self (s : State) : s.setSt s.st = s := rfl

/-- XORing zero into ST changes nothing. -/
@[simp] theorem xorSt_zero (s : State) : s.xorSt 0#64 = s := by
  rw [State.xorSt, BitVec.xor_zero, setSt_st_self]

/-! ### The S-layers and the shift-rows -/

/-- Each output nibble of a substitution, read as an index, is the table's entry at the input nibble (rules R71, R72). -/
theorem toFin_nib_substitute (table : Vector (Fin 16) 16) (x : Block) (i : Fin 16) :
    (nib (substitute table x) i).toFin = table.get (nib x i).toFin :=
  congrArg BitVec.toFin (nib_substitute table x i)

/-- A gather leaves a block of 16 equal nibbles, whatever its table (rule R74). -/
theorem gather_of_equal_nibbles (table : Vector (Fin 16) 16) {x : Block} (h : ∀ i j, nib x i = nib x j) :
    gather table x = x :=
  block_ext_nib fun i => (nib_gather table x i).trans (h _ i)

/-- Settles O11: the result through `toFin_nib_substitute`. -/
theorem slSubstitutesEachNibble : Obligations.SlSubstitutesEachNibble :=
  ⟨by decide, fun s => ⟨sLayer s.tables s.st, rfl, toFin_nib_substitute s.tables.sbox s.st⟩, by decide, by decide⟩

/-- Settles O12: the result through `toFin_nib_substitute`. -/
theorem sliSubstitutesEachNibble : Obligations.SliSubstitutesEachNibble :=
  ⟨by decide, fun s => ⟨sLayerInv s.tables s.st, rfl, toFin_nib_substitute s.tables.sboxInv s.st⟩, by decide⟩

/-- Settles O13: the result through `nib_gather`, the block of equal nibbles through `gather_of_equal_nibbles`. -/
theorem srGathersNibbles : Obligations.SrGathersNibbles := by
  refine ⟨by decide, fun s => ⟨shiftRow s.tables s.st, rfl, nib_gather s.tables.sr s.st⟩, fun s h => ?_, by decide⟩
  have unchanged : shiftRow s.tables s.st = s.st := gather_of_equal_nibbles s.tables.sr h
  calc exec .sr s
    _ = .next (s.setSt (shiftRow s.tables s.st)) := rfl
    _ = .next s := by rw [unchanged, setSt_st_self]

/-- Settles O14: the result through `nib_gather`. -/
theorem sriGathersNibbles : Obligations.SriGathersNibbles :=
  ⟨by decide, fun s => ⟨shiftRowInv s.tables s.st, rfl, nib_gather s.tables.srInv s.st⟩, by decide⟩

/-! ### The M-layer -/

/-- Output nibble i of group k of the M-layer is the block matrix of the group, applied to it (rule R78). -/
theorem nib_mLayer_group (t : Tables) (x : Block) (k i : Fin 4) :
    nib (mLayer t x) ⟨4 * k.val + i.val, by omega⟩ =
      mHat t (groupShift k.val) (fun j => nib x ⟨4 * k.val + j.val, by omega⟩) i := by
  have group : (4 * k.val + i.val) / 4 = k.val := by omega
  have place : (4 * k.val + i.val) % 4 = i.val := by omega
  rw [nib_mLayer]
  simp only [group, place]

/-- An output nibble of a block matrix as the XOR over its four terms (rule R77). -/
theorem mHat_eq_foldl (t : Tables) (shift : Nat) (g : Fin 4 → Nibble) (i : Fin 4) :
    mHat t shift g i = Fin.foldl 4 (fun acc j => acc ^^^ mTerm t shift i j (g j)) 0#4 := by
  simp only [Fin.foldl_succ, Fin.foldl_zero, BitVec.zero_xor]
  rfl

/-- Pattern k of the standard four has every bit but bit 3 - k (rule R76). -/
theorem getLsbD_standardPattern {t : Tables} (ht : t.StandardPatterns) (k b : Fin 4) :
    (t.mpat.get k).getLsbD b.val = decide (b.val ≠ 3 - k.val) := by
  rw [ht]
  revert k b
  decide

/-- AND distributes over XOR. -/
theorem nibble_xor_and_distrib (a b n : Nibble) : (a ^^^ b) &&& n = (a &&& n) ^^^ (b &&& n) :=
  nibble_ext fun j _ => by simp [Bool.and_xor_distrib_right]

/-- Masking the four input nibbles of a block matrix with one nibble masks its outputs (rule R77). -/
theorem mHat_and (t : Tables) (shift : Nat) (g : Fin 4 → Nibble) (n : Nibble) (i : Fin 4) :
    mHat t shift (fun j => g j &&& n) i = mHat t shift g i &&& n := by
  simp only [mHat, mTerm, nibble_xor_and_distrib, BitVec.and_assoc]

/-- A block matrix leaves the all-ones group: each row holds the four patterns once, and every bit is in three of them
(rules R76, R77). -/
theorem mHat_allOnes {t : Tables} (ht : t.StandardPatterns) {shift : Nat} (hs : shift < 2) (i : Fin 4) :
    mHat t shift (fun _ => BitVec.allOnes 4) i = BitVec.allOnes 4 := by
  simp only [mHat, mTerm, ht]
  revert shift i
  decide

/-- The two block matrices are the two shifts 0 and 1 (rule R78). -/
theorem groupShift_lt (k : Nat) : groupShift k < 2 := by
  unfold groupShift
  split <;> decide

/-- A block matrix leaves a group of four equal nibbles (rule R77). -/
theorem mHat_const {t : Tables} (ht : t.StandardPatterns) {shift : Nat} (hs : shift < 2) (n : Nibble) (i : Fin 4) :
    mHat t shift (fun _ => n) i = n := by
  calc mHat t shift (fun _ => n) i
    _ = mHat t shift (fun _ => BitVec.allOnes 4 &&& n) i := by rw [BitVec.allOnes_and]
    _ = BitVec.allOnes 4 &&& n := by rw [mHat_and, mHat_allOnes ht hs]
    _ = n := BitVec.allOnes_and

/-- The M-layer with the four patterns leaves a block of 16 equal nibbles (rule R78). -/
theorem mLayer_of_equal_nibbles {t : Tables} (ht : t.StandardPatterns) {x : Block} (h : ∀ i j, nib x i = nib x j) :
    mLayer t x = x :=
  block_ext_nib fun i => by
    have equal : (fun j : Fin 4 => nib x ⟨4 * (i.val / 4) + j.val, by omega⟩) = fun _ => nib x i :=
      funext fun j => h _ i
    rw [nib_mLayer, equal, mHat_const ht (groupShift_lt _)]

/-- Settles O15: the patterns through `getLsbD_standardPattern`, the result through `nib_mLayer_group` and
`mHat_eq_foldl`, the fixed blocks through `mLayer_of_equal_nibbles`. -/
theorem mlMultipliesEachGroup : Obligations.MlMultipliesEachGroup := by
  refine ⟨rfl, fun t ht k n b => ?_, by decide, fun s => ⟨mLayer s.tables s.st, rfl, fun k i => ?_⟩, fun t ht => ⟨?_, ?_⟩,
    by decide, by decide⟩
  · rw [BitVec.getLsbD_and, getLsbD_standardPattern ht]
  · exact (nib_mLayer_group s.tables s.st k i).trans (mHat_eq_foldl s.tables _ _ i)
  · exact mLayer_of_equal_nibbles ht (by decide)
  · exact mLayer_of_equal_nibbles ht (by decide)

/-! ### The XOR of a constant or a key -/

/-- XRC with a legal index XORs the constant of that index into ST (rule R80). -/
theorem execXrc_of_lt {i : BitVec 4} (h : i.toNat < 11) (s : State) :
    execXrc i s = .next (s.xorSt (s.tables.rc.get ⟨i.toNat, h⟩)) :=
  (execXrc_eq_next i s _).mpr ⟨_, rcOperand_of_lt s.tables i h, rfl⟩

/-- XRC refuses the indexes 11 to 15 (rules R48, R80). -/
theorem execXrc_of_ge {i : BitVec 4} (h : 11 ≤ i.toNat) (s : State) :
    execXrc i s = .refused (.reservedUop .rcIndex) := by
  rw [execXrc, rcOperand_of_ge s.tables i h]

/-- The word of XRC i is 0x600 with i in its lowest four bits (rules R46, R47). -/
theorem xrcWord_eq_encodeUop (i : BitVec 4) : 0x600#12 ||| i.setWidth 12 = encodeUop 6#4 i := by
  revert i; decide

/-- Settles O19: the legal indexes through `execXrc_of_lt`, the reserved ones through `execXrc_of_ge`, the words through
`decodeUop_encodeUop`. -/
theorem xrcInjectsTheConstant : Obligations.XrcInjectsTheConstant := by
  refine ⟨fun i h s => ⟨?_, execXrc_of_lt h s⟩, fun s h => ?_, fun i s h => execXrc_of_ge h s, by decide⟩
  · rw [xrcWord_eq_encodeUop]
    exact (decodeUop_encodeUop 6#4 i).trans (decodeXrc_of_le (Nat.le_of_lt_succ h))
  · calc exec (.xrc 0#4) s
      _ = .next (s.xorSt (s.tables.rc.get 0)) := execXrc_of_lt (i := 0#4) (by decide) s
      _ = .next s := by rw [h, xorSt_zero]

/-- XK with a selector that names a key XORs that key into ST (rule R81). -/
theorem execXk_of_keyOperand {sel : BitVec 2} {s : State} {v : Block} (h : keyOperand s sel = some v) :
    execXk sel s = .next (s.xorSt v) :=
  (execXk_eq_next sel s _).mpr ⟨v, h, rfl⟩

/-- XK refuses the selector 11 (rules R48, R81). -/
theorem execXk_three (s : State) : execXk 3#2 s = .refused (.reservedUop .keySelect) := by
  rw [execXk, keyOperand_three]

/-- The word of XK sel is 0x700 with sel in its lowest two bits (rules R46, R47). -/
theorem xkWord_eq_encodeUop (sel : BitVec 2) : 0x700#12 ||| sel.setWidth 12 = encodeUop 7#4 (sel.setWidth 4) := by
  revert sel; decide

/-- Settles O20: each selector through `execXk_of_keyOperand` or `execXk_three`, the words through
`decodeUop_encodeUop`. -/
theorem xkWhitensWithTheKey : Obligations.XkWhitensWithTheKey := by
  have whiten : ∀ s : State, exec (.xk 0#2) s = .next (s.xorSt s.k0r) :=
    fun s => execXk_of_keyOperand (keyOperand_zero s)
  refine ⟨fun s => ⟨whiten s, execXk_of_keyOperand (keyOperand_one s), execXk_of_keyOperand (keyOperand_two s),
    execXk_three s⟩, fun s hk => ?_, fun s hk hst => ?_, fun sel h => ?_⟩
  · rw [whiten, hk, xorSt_zero]
  · have value : s.st ^^^ s.k0r = 0x0123456789abcdef#64 := by rw [hst, hk, BitVec.zero_xor]
    rw [whiten, State.xorSt, value]
    rfl
  · rw [xkWord_eq_encodeUop]
    exact (decodeUop_encodeUop 7#4 _).trans (decodeXk_of_ne h)

/-! ### The key flip -/

/-- In decryption mode the flip XORs ALPHA ⊕ BETA into both working keys (rule R82). -/
theorem flipKeys_of_backward {s : State} (h : s.mode = .backward) :
    s.flipKeys = { s with k0r := s.k0r ^^^ (s.tables.alpha ^^^ s.tables.beta),
                          k1r := s.k1r ^^^ (s.tables.alpha ^^^ s.tables.beta) } := by
  have flipped : ∀ k, flipHalf s.tables s.mode k = k ^^^ (s.tables.alpha ^^^ s.tables.beta) :=
    fun k => by rw [h, flipHalf]
  rw [State.flipKeys, flipped, flipped]

/-- In encryption mode the flip changes nothing (rule R82). -/
theorem flipKeys_of_forward {s : State} (h : s.mode = .forward) : s.flipKeys = s := by
  have unchanged : ∀ k, flipHalf s.tables s.mode k = k := fun k => by rw [h, flipHalf]
  rw [State.flipKeys, unchanged, unchanged]

/-- Settles O21: the two modes through `flipKeys_of_backward` and `flipKeys_of_forward`. -/
theorem kflipFlipsBothKeys : Obligations.KflipFlipsBothKeys := by
  refine ⟨by decide, fun s hm => congrArg _ (flipKeys_of_backward hm), fun s hm => congrArg _ (flipKeys_of_forward hm),
    fun s hm ht h0 h1 => ?_⟩
  have value : 0#64 ^^^ (defaultTables.alpha ^^^ defaultTables.beta) = 0xff28fc027c3b59ca#64 := by decide
  calc exec .kflip s
    _ = .next s.flipKeys := rfl
    _ = .next { s with k0r := 0xff28fc027c3b59ca#64, k1r := 0xff28fc027c3b59ca#64 } := by
      rw [flipKeys_of_backward hm, ht, h0, h1, value]

end Sys2Proof.Machine
end

section
/-! PROOF. The layers undo each other: the two S-layers and the two shift-rows with mutually inverse tables (rules R70 to
R75), the M-layer itself with the four patterns (rule R79). -/

namespace Sys2Proof.Machine

/-- A substitution undoes another whose table its own inverts. -/
theorem substitute_substitute {t u : Vector (Fin 16) 16} (h : ∀ n, u.get (t.get n) = n) (x : Block) :
    substitute u (substitute t x) = x :=
  block_ext_nib fun i => by
    rw [nib_substitute, nib_substitute]
    exact congrArg BitVec.ofFin (h _)

/-- A gather undoes another whose table its own inverts. -/
theorem gather_gather {t u : Vector (Fin 16) 16} (h : ∀ i, t.get (u.get i) = i) (x : Block) :
    gather u (gather t x) = x :=
  block_ext_nib fun i => by rw [nib_gather, nib_gather, h]

/-- The inverse S-layer undoes the S-layer (rule R72). -/
theorem sLayerInv_sLayer {t : Tables} (h : t.SboxInverse) (x : Block) : sLayerInv t (sLayer t x) = x :=
  substitute_substitute h.1 x

/-- The S-layer undoes the inverse S-layer (rule R72). -/
theorem sLayer_sLayerInv {t : Tables} (h : t.SboxInverse) (x : Block) : sLayer t (sLayerInv t x) = x :=
  substitute_substitute h.2 x

/-- The inverse shift-row undoes the shift-row (rule R75). -/
theorem shiftRowInv_shiftRow {t : Tables} (h : t.ShiftInverse) (x : Block) : shiftRowInv t (shiftRow t x) = x :=
  gather_gather h.2 x

/-- The shift-row undoes the inverse shift-row (rule R75). -/
theorem shiftRow_shiftRowInv {t : Tables} (h : t.ShiftInverse) (x : Block) : shiftRow t (shiftRowInv t x) = x :=
  gather_gather h.1 x

/-- Bit b of a block matrix, on bit b of its four input nibbles: the XOR of those whose pattern keeps the bit (rules R76,
R77). -/
def mHatBit (shift : Nat) (b : Fin 4) (g : Fin 4 → Bool) (i : Fin 4) : Bool :=
  Fin.foldl 4 (fun acc j => acc ^^ (decide (b.val ≠ 3 - (i.val + j.val + shift) % 4) && g j)) false

/-- A block matrix with the four patterns works bit by bit (rules R76, R77). -/
theorem getLsbD_mHat {t : Tables} (ht : t.StandardPatterns) (shift : Nat) (g : Fin 4 → Nibble) (i b : Fin 4) :
    (mHat t shift g i).getLsbD b.val = mHatBit shift b (fun j => (g j).getLsbD b.val) i := by
  simp only [mHat, mTerm, mHatBit, BitVec.getLsbD_xor, BitVec.getLsbD_and, getLsbD_standardPattern ht, Fin.foldl_succ,
    Fin.foldl_zero, Bool.false_xor]
  rfl

/-- On one bit a block matrix is its own inverse (rule R79). -/
theorem mHatBit_mHatBit : ∀ (shift : Fin 2) (b : Fin 4) (g : Fin 4 → Bool) (i : Fin 4),
    mHatBit shift.val b (mHatBit shift.val b g) i = g i := by
  decide

/-- A block matrix with the four patterns is its own inverse (rule R79). -/
theorem mHat_mHat {t : Tables} (ht : t.StandardPatterns) {shift : Nat} (hs : shift < 2) (g : Fin 4 → Nibble)
    (i : Fin 4) : mHat t shift (mHat t shift g) i = g i :=
  nibble_ext fun b hb => by
    have inner : (fun j => (mHat t shift g j).getLsbD b) = mHatBit shift ⟨b, hb⟩ fun j => (g j).getLsbD b :=
      funext fun j => getLsbD_mHat ht shift g j ⟨b, hb⟩
    calc (mHat t shift (mHat t shift g) i).getLsbD b
      _ = mHatBit shift ⟨b, hb⟩ (fun j => (mHat t shift g j).getLsbD b) i := getLsbD_mHat ht shift _ i ⟨b, hb⟩
      _ = (g i).getLsbD b := by rw [inner]; exact mHatBit_mHatBit ⟨shift, hs⟩ ⟨b, hb⟩ _ i

/-- The M-layer with the four patterns is its own inverse (rule R79). -/
theorem mLayer_mLayer {t : Tables} (ht : t.StandardPatterns) (x : Block) : mLayer t (mLayer t x) = x :=
  block_ext_nib fun i => by
    obtain ⟨k, j, rfl⟩ : ∃ k j : Fin 4, i = ⟨4 * k.val + j.val, by omega⟩ :=
      ⟨⟨i.val / 4, by omega⟩, ⟨i.val % 4, by omega⟩, Fin.ext (by simp only; omega)⟩
    rw [nib_mLayer_group, funext fun j => nib_mLayer_group t x k j]
    exact mHat_mHat ht (groupShift_lt _) _ j

end Sys2Proof.Machine
end

section
/-! PROOF. The key and constant of each round in the micro-sequence (rules R92, R93), and the forward round, the inverse
round and the middle as their micro-operations, run one after another by their meanings (rules R90, R91, R97). -/

namespace Sys2Proof.Machine

/-! ### The schedule of keys and constants -/

/-- XK K0 XORs K0R into ST (rule R81). -/
@[simp] theorem exec_xk_zero (s : State) : exec (.xk 0#2) s = .next (s.xorSt s.k0r) :=
  execXk_of_keyOperand (keyOperand_zero s)

/-- XK K1 XORs K1R into ST (rule R81). -/
@[simp] theorem exec_xk_one (s : State) : exec (.xk 1#2) s = .next (s.xorSt s.k1r) :=
  execXk_of_keyOperand (keyOperand_one s)

/-- XK K1B XORs K1R ⊕ BETA into ST (rule R81). -/
@[simp] theorem exec_xk_two (s : State) : exec (.xk 2#2) s = .next (s.xorSt (s.k1r ^^^ s.tables.beta)) :=
  execXk_of_keyOperand (keyOperand_two s)

/-- The word 0x600 + i decodes to XRC i (rules R46, R47). -/
theorem decodeUop_xrcWord (i : Fin 11) :
    decodeUop (BitVec.ofNat 12 (0x600 + i.val)) = .ok (.xrc (BitVec.ofNat 4 i.val)) := by
  have word : BitVec.ofNat 12 (0x600 + i.val) = encodeUop 6#4 (BitVec.ofNat 4 i.val) := by revert i; decide
  have legal : (BitVec.ofNat 4 i.val).toNat ≤ 10 := by rw [BitVec.toNat_ofNat]; omega
  rw [word]
  exact (decodeUop_encodeUop 6#4 _).trans (decodeXrc_of_le legal)

/-- The word of XK sel decodes to it for each selector but 11 (rules R46, R47). -/
theorem decodeUop_xkWord {sel : BitVec 2} (h : sel ≠ 3#2) :
    decodeUop (encodeUop 7#4 (sel.setWidth 4)) = .ok (.xk sel) :=
  (decodeUop_encodeUop 7#4 _).trans (decodeXk_of_ne h)

/-- Settles O25: the words are read off the sequence; what they decode to is `decodeUop_xrcWord` and `decodeUop_xkWord`,
and what the selectors read `exec_xk_zero`, `exec_xk_one` and `exec_xk_two`. -/
theorem roundScheduleInTheRom : Obligations.RoundScheduleInTheRom := by
  refine ⟨?forward, ?backward, ?initial, ?middleAndFinal, fun i => ⟨?once, decodeUop_xrcWord i⟩,
    ⟨decodeUop_xkWord (sel := 0#2) (by decide), decodeUop_xkWord (sel := 1#2) (by decide),
      decodeUop_xkWord (sel := 2#2) (by decide)⟩,
    fun s => ⟨exec_xk_zero s, exec_xk_one s, exec_xk_two s⟩⟩
  case once => revert i; decide
  all_goals decide

/-! ### Running an expansion

The next state of each micro-operation but XRC and XK (rules R71 to R75, R78, R82). -/

@[simp] theorem exec_sl (s : State) : exec .sl s = .next (s.setSt (sLayer s.tables s.st)) := rfl
@[simp] theorem exec_sli (s : State) : exec .sli s = .next (s.setSt (sLayerInv s.tables s.st)) := rfl
@[simp] theorem exec_ml (s : State) : exec .ml s = .next (s.setSt (mLayer s.tables s.st)) := rfl
@[simp] theorem exec_sr (s : State) : exec .sr s = .next (s.setSt (shiftRow s.tables s.st)) := rfl
@[simp] theorem exec_sri (s : State) : exec .sri s = .next (s.setSt (shiftRowInv s.tables s.st)) := rfl
@[simp] theorem exec_kflip (s : State) : exec .kflip s = .next s.flipKeys := rfl

/-- The later of two writes of ST wins. -/
@[simp] theorem setSt_setSt (s : State) (v w : Block) : (s.setSt v).setSt w = s.setSt w := rfl

/-- A write of ST commutes with the key flip. -/
@[simp] theorem flipKeys_setSt (s : State) (v : Block) : (s.setSt v).flipKeys = s.flipKeys.setSt v := rfl

/-- XRC with the index of a constant XORs that constant into ST (rule R80). -/
theorem exec_xrc_index (i : Fin 11) (s : State) :
    exec (.xrc (BitVec.ofNat 4 i.val)) s = .next (s.xorSt (s.tables.rc.get i)) := by
  have index : (BitVec.ofNat 4 i.val).toNat = i.val := by rw [BitVec.toNat_ofNat]; omega
  have legal : (BitVec.ofNat 4 i.val).toNat < 11 := by omega
  have same : (⟨(BitVec.ofNat 4 i.val).toNat, legal⟩ : Fin 11) = i := Fin.ext index
  exact (execXrc_of_lt legal s).trans (by rw [same])

/-- The key selector of round i: K1 for odd i, K0 for even i (rule R92). -/
def roundSelector (i : Nat) : BitVec 2 := if i % 2 = 1 then 1#2 else 0#2

/-- XK with the selector of round i XORs the key of round i into ST (rules R81, R92). -/
theorem exec_xk_roundSelector (i : Nat) (s : State) :
    exec (.xk (roundSelector i)) s = .next (s.xorSt (roundKey i s.k0r s.k1r)) := by
  by_cases h : i % 2 = 1
  · rw [roundSelector, roundKey, if_pos h, if_pos h, exec_xk_one]
  · rw [roundSelector, roundKey, if_neg h, if_neg h, exec_xk_zero]

/-- A run whose first micro-operation answers a next state goes on from there. -/
theorem runUops_cons_of_next {i : Instr} {s t : State} (h : exec i s = .next t) (is : List Instr) :
    runUops (i :: is) s = runUops is t := by
  rw [runUops, h]

/-- Runs of two sequences one after the other. -/
theorem runUops_append_of_next {is : List Instr} {s t : State} (h : runUops is s = .next t) (js : List Instr) :
    runUops (is ++ js) s = runUops js t := by
  induction is generalizing s with
  | nil => rw [← Host.Outcome.next.inj h, List.nil_append]
  | cons i is ih =>
    rw [runUops] at h
    rw [List.cons_append, runUops]
    cases hi : exec i s with
    | next u => rw [hi] at h; exact ih h
    | fault r => rw [hi] at h; cases h
    | refused r => rw [hi] at h; cases h

/-- The expansion of forward round i computes it, with the key and constant of round i (rules R90, R92, R93). -/
theorem runUops_fwdRound (s : State) (i : Fin 11) :
    runUops [.sl, .ml, .sr, .xrc (BitVec.ofNat 4 i.val), .xk (roundSelector i.val)] s =
      .next (s.setSt (fwdRound s.tables s.st (roundKey i.val s.k0r s.k1r) (s.tables.rc.get i))) := by
  simp [runUops, exec_xrc_index, exec_xk_roundSelector, State.xorSt, fwdRound]

/-- The expansion of inverse round i computes it, with the key and constant of round i (rules R91, R92, R93). -/
theorem runUops_invRound (s : State) (i : Fin 11) :
    runUops [.xk (roundSelector i.val), .xrc (BitVec.ofNat 4 i.val), .sri, .ml, .sli] s =
      .next (s.setSt (invRound s.tables s.st (roundKey i.val s.k0r s.k1r) (s.tables.rc.get i))) := by
  simp [runUops, exec_xrc_index, exec_xk_roundSelector, State.xorSt, invRound]

/-- The expansion of the middle computes its state and keys (rule R97). -/
theorem runUops_mid (s : State) :
    runUops [.sl, .xk 0#2, .ml, .kflip, .xk 2#2, .sli] s =
      .next (s.flipKeys.setSt (mid s.tables s.st s.k0r s.k1r s.mode).1) := by
  rw [runUops_cons_of_next (exec_sl _), runUops_cons_of_next (exec_xk_zero _), runUops_cons_of_next (exec_ml _),
    runUops_cons_of_next (exec_kflip _), runUops_cons_of_next (exec_xk_two _), runUops_cons_of_next (exec_sli _)]
  simp [runUops, State.xorSt, mid]

/-- A key half after the reflection point, by the mode (rules R82, R97). -/
theorem flipHalf_eq_ite (t : Tables) (mode : Mode) (k : Block) :
    flipHalf t mode k = if mode = .backward then k ^^^ t.alpha ^^^ t.beta else k := by
  cases mode with
  | forward => rfl
  | backward => rw [if_pos rfl, flipHalf, BitVec.xor_assoc]

end Sys2Proof.Machine
end

section
/-! PROOF. KFLIP at a wrong place breaks the round trip (rule R97). The micro-operations but KFLIP permute the values of
ST, so what follows KFLIP can be undone: a run with KFLIP at place n ends in the block p only if, at place n, its ST is the
one that a run under the flipped keys from the start, ending in p too, has there. The two runs are compared at every
place. -/

namespace Sys2Proof.Machine

/-- A sequence of micro-operations that, from any state with the registers of s but ST, answers a next state and permutes
the values of ST, changing nothing else. -/
def PermutesSt (s : State) (is : List Instr) : Prop :=
  ∃ f : Block → Block, f.Injective ∧ ∀ x, runUops is (s.setSt x) = .next (s.setSt (f x))

/-- One micro-operation permutes ST if its meaning writes an injective function of ST there. -/
theorem permutesSt_singleton {s : State} {i : Instr} {f : Block → Block} (hf : f.Injective)
    (h : ∀ x, exec i (s.setSt x) = .next (s.setSt (f x))) : PermutesSt s [i] :=
  ⟨f, hf, fun x => runUops_cons_of_next (h x) []⟩

/-- A sequence whose members each permute ST permutes it. -/
theorem permutesSt_of_forall {s : State} {is : List Instr} (h : ∀ i ∈ is, PermutesSt s [i]) : PermutesSt s is := by
  induction is with
  | nil => exact ⟨id, Function.injective_id, fun _ => rfl⟩
  | cons i is ih =>
    obtain ⟨f, hf, first⟩ := h i List.mem_cons_self
    obtain ⟨g, hg, rest⟩ := ih fun j hj => h j (List.mem_cons_of_mem i hj)
    exact ⟨g ∘ f, hg.comp hf, fun x => (runUops_append_of_next (first x) is).trans (rest (f x))⟩

/-- Every legal micro-operation but KFLIP permutes ST under lawful tables: a layer has an inverse, and XOR with a value
undoes itself (rules R71 to R81). -/
theorem permutesSt_of_legal {s : State} (hs : s.tables.Lawful) {i : Instr} (hi : i ∈ legalUops) (hk : i ≠ .kflip) :
    PermutesSt s [i] := by
  obtain ⟨hbox, hshift, -, -, hpat⟩ := hs
  cases i with
  | enc k0 k1 d => simp [legalUops] at hi
  | dec k0 k1 d => simp [legalUops] at hi
  | sl => exact permutesSt_singleton (Function.LeftInverse.injective (sLayerInv_sLayer hbox)) fun _ => rfl
  | sli => exact permutesSt_singleton (Function.LeftInverse.injective (sLayer_sLayerInv hbox)) fun _ => rfl
  | ml => exact permutesSt_singleton (Function.LeftInverse.injective (mLayer_mLayer hpat)) fun _ => rfl
  | sr => exact permutesSt_singleton (Function.LeftInverse.injective (shiftRowInv_shiftRow hshift)) fun _ => rfl
  | sri => exact permutesSt_singleton (Function.LeftInverse.injective (shiftRow_shiftRowInv hshift)) fun _ => rfl
  | xrc i =>
    have legal : ∀ j : BitVec 4, Instr.xrc j ∈ legalUops → j.toNat < 11 := by decide
    exact permutesSt_singleton (bijective_xor_const (s.tables.rc.get ⟨i.toNat, legal i hi⟩)).injective
      fun x => execXrc_of_lt (legal i hi) (s.setSt x)
  | xk sel =>
    obtain rfl | rfl | rfl | rfl := selector_cases sel
    · exact permutesSt_singleton (bijective_xor_const s.k0r).injective fun x => exec_xk_zero (s.setSt x)
    · exact permutesSt_singleton (bijective_xor_const s.k1r).injective fun x => exec_xk_one (s.setSt x)
    · exact permutesSt_singleton (bijective_xor_const (s.k1r ^^^ s.tables.beta)).injective
        fun x => exec_xk_two (s.setSt x)
    · exact absurd hi (by decide)
  | kflip => exact absurd rfl hk

/-- The micro-sequence without KFLIP. -/
def romWithoutKflip : List Instr := (instrsOf microRom).filter (· ≠ .kflip)

/-- The sequence with KFLIP at place n is the one without it, cut there. -/
theorem sequenceWithKflipAt_eq (n : Nat) :
    sequenceWithKflipAt n = romWithoutKflip.take n ++ .kflip :: romWithoutKflip.drop n := rfl

/-- Under lawful tables any part of the micro-sequence without KFLIP permutes ST. -/
theorem permutesSt_of_subset_rom {s : State} (hs : s.tables.Lawful) {is : List Instr} (h : is ⊆ romWithoutKflip) :
    PermutesSt s is := by
  have legal : ∀ i ∈ romWithoutKflip, i ∈ legalUops ∧ i ≠ .kflip := by decide
  exact permutesSt_of_forall fun i hi => permutesSt_of_legal hs (legal i (h hi)).1 (legal i (h hi)).2

/-- If the run under the flipped keys from y ends in p, then the run with KFLIP at place n ends in p only if its ST at
place n is that of the run under the flipped keys. -/
theorem stOf_take_eq_of_run_kflipAt {s : State} (hs : s.tables.Lawful) {y p : Block} {n : Nat}
    (flipped : stOf (runUops romWithoutKflip (s.flipKeys.setSt y)) = some p)
    (run : stOf (runUops (sequenceWithKflipAt n) s) = some p) :
    stOf (runUops (romWithoutKflip.take n) s) = stOf (runUops (romWithoutKflip.take n) (s.flipKeys.setSt y)) := by
  obtain ⟨f, -, before⟩ := permutesSt_of_subset_rom hs (List.take_subset n romWithoutKflip)
  obtain ⟨g, -, beforeFlipped⟩ := permutesSt_of_subset_rom (s := s.flipKeys) hs (List.take_subset n romWithoutKflip)
  obtain ⟨h, hinj, after⟩ := permutesSt_of_subset_rom (s := s.flipKeys) hs (List.drop_subset n romWithoutKflip)
  have start : runUops (romWithoutKflip.take n) s = .next (s.setSt (f s.st)) := before s.st
  have flippedEnd : h (g y) = p := by
    rw [← List.take_append_drop n romWithoutKflip, runUops_append_of_next (beforeFlipped y), after] at flipped
    exact Option.some.inj flipped
  have runEnd : h (f s.st) = p := by
    rw [sequenceWithKflipAt_eq, runUops_append_of_next start, runUops_cons_of_next (exec_kflip _), flipKeys_setSt,
      after] at run
    exact Option.some.inj run
  rw [start, beforeFlipped]
  exact congrArg some (hinj (runEnd.trans flippedEnd.symm))

/-- The state in which a decryption of the ciphertext of vector S8 starts the micro-sequence. -/
def s8Decryption : State :=
  State.reset.accept .backward 0x0123456789abcdef#64 0xfedcba9876543210#64 0x603cd95fa72a8704#64

/-- The block from which the run under the flipped keys of `s8Decryption` ends in the plaintext of S8. -/
def s8FlippedStart : Block := 0xb6a2c10bc243a909#64

/-- Under the flipped keys the micro-sequence takes that block to the plaintext of S8. -/
theorem stOf_runUops_s8FlippedStart :
    stOf (runUops romWithoutKflip (s8Decryption.flipKeys.setSt s8FlippedStart)) = some 0x0123456789abcdef#64 := by
  decide +kernel

/-- The decryption of S8 and the run under the flipped keys have different ST at every place before the middle XK K0 and
at every place after the middle XK K1B. -/
theorem s8_st_ne_flipped : ∀ n : Fin 59, n.val ≤ 28 ∨ 31 ≤ n.val →
    stOf (runUops (romWithoutKflip.take n.val) s8Decryption) ≠
      stOf (runUops (romWithoutKflip.take n.val) (s8Decryption.flipKeys.setSt s8FlippedStart)) := by
  decide +kernel

/-- With KFLIP before the middle XK K0 or after the middle XK K1B the decryption of S8 does not give back its plaintext:
the clause of rule R97 on the round trip, for one key and block at every such place. -/
theorem kflip_breaks_roundTrip : ∃ (s : State) (k0 k1 p : Block), s.tables = defaultTables ∧
    ∀ n : Fin 59, n.val ≤ 28 ∨ 31 ≤ n.val →
      stOf (runUops (sequenceWithKflipAt n.val) (s.accept .backward k0 k1 (encrypt s.tables k0 k1 p))) ≠ some p := by
  refine ⟨State.reset, 0x0123456789abcdef#64, 0xfedcba9876543210#64, 0x0123456789abcdef#64, rfl, fun n hn run => ?_⟩
  have cipher : encrypt State.reset.tables 0x0123456789abcdef#64 0xfedcba9876543210#64 0x0123456789abcdef#64 =
      0x603cd95fa72a8704#64 := by decide +kernel
  have lawful : s8Decryption.tables.Lawful := by decide
  rw [cipher] at run
  exact s8_st_ne_flipped n hn (stOf_take_eq_of_run_kflipAt lawful stOf_runUops_s8FlippedStart run)

/-- Settles O29: the expansions through `runUops_fwdRound`, `runUops_invRound` and `runUops_mid`, the broken round trip
through `kflip_breaks_roundTrip`. -/
theorem roundsByTheirExpansions : Obligations.RoundsByTheirExpansions := by
  refine ⟨fun t x k rc => ⟨rfl, ?swapped, rfl⟩, fun s i => ⟨runUops_fwdRound s i, runUops_invRound s i⟩,
    fun s => ⟨?middle, ?expansion⟩, kflip_breaks_roundTrip, ?_, ?_, ?_⟩
  case swapped => rw [fwdRound, BitVec.xor_assoc, BitVec.xor_comm rc k, ← BitVec.xor_assoc]
  case middle => simp only [mid, flipHalf_eq_ite]
  case expansion =>
    simp only [runUops_mid, mid, State.flipKeys, State.setSt, flipHalf_eq_ite]
  all_goals decide +kernel

end Sys2Proof.Machine
end

section
/-! PROOF. The fields of a command vector read back, and what it decodes to (rules R41 to R43). -/

namespace Sys2Proof

/-- The fields of a command vector read back (rules R41, R42). -/
theorem cmdFields_encodeCmd (m : Bool) (k0 k1 d : Block) :
    cmdMode (encodeCmd m k0 k1 d) = m ∧ cmdK0 (encodeCmd m k0 k1 d) = k0 ∧ cmdK1 (encodeCmd m k0 k1 d) = k1 ∧
      cmdData (encodeCmd m k0 k1 d) = d := by
  refine ⟨?_, ?_, ?_, ?_⟩
  · rw [cmdMode, encodeCmd, BitVec.getLsbD_append, BitVec.getLsbD_append, BitVec.getLsbD_append]
    simp
  · calc (BitVec.ofBool m ++ k0 ++ k1 ++ d).extractLsb' 128 64
      _ = (BitVec.ofBool m ++ k0 ++ k1).extractLsb' 64 64 := BitVec.extractLsb'_append_eq_of_le (by decide)
      _ = (BitVec.ofBool m ++ k0).extractLsb' 0 64 := BitVec.extractLsb'_append_eq_of_le (by decide)
      _ = k0.extractLsb' 0 64 := BitVec.extractLsb'_append_eq_of_add_le (by decide)
      _ = k0 := BitVec.extractLsb'_eq_self
  · calc (BitVec.ofBool m ++ k0 ++ k1 ++ d).extractLsb' 64 64
      _ = (BitVec.ofBool m ++ k0 ++ k1).extractLsb' 0 64 := BitVec.extractLsb'_append_eq_of_le (by decide)
      _ = k1.extractLsb' 0 64 := BitVec.extractLsb'_append_eq_of_add_le (by decide)
      _ = k1 := BitVec.extractLsb'_eq_self
  · calc (BitVec.ofBool m ++ k0 ++ k1 ++ d).extractLsb' 0 64
      _ = d.extractLsb' 0 64 := BitVec.extractLsb'_append_eq_of_add_le (by decide)
      _ = d := BitVec.extractLsb'_eq_self

/-- The vector built from a command's fields decodes to that command (rules R41, R43). -/
theorem decodeCmd_encodeCmd (m : Bool) (k0 k1 d : Block) :
    decodeCmd (encodeCmd m k0 k1 d) = if m then .dec k0 k1 d else .enc k0 k1 d := by
  obtain ⟨hm, h0, h1, hd⟩ := cmdFields_encodeCmd m k0 k1 d
  cases m with
  | false => rw [decodeCmd_of_mode_false hm, h0, h1, hd, if_neg Bool.false_ne_true]
  | true => rw [decodeCmd_of_mode_true hm, h0, h1, hd, if_pos rfl]

end Sys2Proof
end

section
/-! PROOF. Core written out round by round (rules R100 to R102), and the micro-sequence as the run of its parts, which
computes Core (rule R104). -/

namespace Sys2Proof.Machine

/-- Settles O30: Core is its rounds by definition once the mode is known, which decides the key flip. -/
theorem coreIsTheTwelveRoundPipeline : Obligations.CoreIsTheTwelveRoundPipeline := by
  refine ⟨fun t k0 k1 x mode => ?_, fun t k0 k1 x => ⟨rfl, rfl⟩, by decide +kernel⟩
  cases mode with
  | forward => rfl
  | backward => rfl

/-- The expansion of forward round i (rules R90, R92, R93). -/
def forwardUops (i : Fin 11) : List Instr := [.sl, .ml, .sr, .xrc (BitVec.ofNat 4 i.val), .xk (roundSelector i.val)]

/-- The expansion of inverse round i (rules R91, R92, R93). -/
def backwardUops (i : Fin 11) : List Instr := [.xk (roundSelector i.val), .xrc (BitVec.ofNat 4 i.val), .sri, .ml, .sli]

/-- The micro-sequence by its parts: initial whitening, five forward rounds, middle, five inverse rounds, final whitening
(rules R100, R104). -/
theorem instrsOf_microRom : instrsOf microRom =
    [.xk 0#2, .xrc 0#4] ++ ([1, 2, 3, 4, 5].flatMap forwardUops ++ ([.sl, .xk 0#2, .ml, .kflip, .xk 2#2, .sli] ++
      ([6, 7, 8, 9, 10].flatMap backwardUops ++ [.xk 2#2]))) := by
  decide

/-- The expansions of forward rounds in a row compute them (rules R90, R100). -/
theorem runUops_forwardRounds (rounds : List (Fin 11)) (s : State) :
    runUops (rounds.flatMap forwardUops) s =
      .next (s.setSt (forwardRounds s.tables s.k0r s.k1r rounds s.st)) := by
  induction rounds generalizing s with
  | nil => rfl
  | cons i rounds ih => exact (runUops_append_of_next (runUops_fwdRound s i) _).trans (ih _)

/-- The expansions of inverse rounds in a row compute them (rules R91, R100). -/
theorem runUops_backwardRounds (rounds : List (Fin 11)) (s : State) :
    runUops (rounds.flatMap backwardUops) s =
      .next (s.setSt (backwardRounds s.tables s.k0r s.k1r rounds s.st)) := by
  induction rounds generalizing s with
  | nil => rfl
  | cons i rounds ih => exact (runUops_append_of_next (runUops_invRound s i) _).trans (ih _)

/-- The micro-sequence leaves Core of the loaded values in ST and the flipped keys in K0R and K1R (rules R100, R104). -/
theorem runUops_microRom (s : State) :
    runUops (instrsOf microRom) s =
      .next (s.flipKeys.setSt (princeCore s.tables s.k0r s.k1r s.st s.mode)) := by
  have whitening : runUops [.xk 0#2, .xrc 0#4] s = .next (s.setSt (s.st ^^^ s.k0r ^^^ s.tables.rc.get 0)) := rfl
  rw [instrsOf_microRom, runUops_append_of_next whitening, runUops_append_of_next (runUops_forwardRounds _ _),
    runUops_append_of_next (runUops_mid _), runUops_append_of_next (runUops_backwardRounds _ _),
    runUops_cons_of_next (exec_xk_two _)]
  rfl

end Sys2Proof.Machine
end

section
/-! PROOF. A clock cycle while BUSY: what is left of the micro-sequence runs, and then its edge counts down or completes
(rules R105, R111). No micro-operation reads the ports, so nothing on them but rst has a part in it (rule R113). -/

namespace Sys2Proof.Machine

/-! ### One micro-operation, and what is left of the sequence -/

/-- The state at another position of the sequence and with other port values, neither of which a micro-operation reads. -/
def State.placed (s : State) (upc : Fin 60) (inputs : List Inputs) : State := { s with upc := upc, inputs := inputs }

/-- The two states differ in ST, K0R and K1R at most, all that a micro-operation writes (rule R105). -/
def SameButCipher (s t : State) : Prop := t = { s with st := t.st, k0r := t.k0r, k1r := t.k1r }

/-- What one run and the next leave unchanged, both together do. -/
theorem sameButCipher_trans {s t u : State} (h : SameButCipher s t) (h' : SameButCipher t u) : SameButCipher s u := by
  rw [SameButCipher] at h h'
  rw [h] at h'
  exact h'

/-- A legal micro-operation answers a next state, writes the cipher registers alone, and reads neither UPC nor the ports
(rules R71 to R82, R105). -/
theorem exec_placed {i : Instr} (hi : i ∈ legalUops) (s : State) :
    ∃ t, SameButCipher s t ∧ ∀ upc inputs, exec i (s.placed upc inputs) = .next (t.placed upc inputs) := by
  cases i with
  | enc k0 k1 d => simp [legalUops] at hi
  | dec k0 k1 d => simp [legalUops] at hi
  | sl => exact ⟨s.setSt (sLayer s.tables s.st), rfl, fun u is => exec_sl (s.placed u is)⟩
  | sli => exact ⟨s.setSt (sLayerInv s.tables s.st), rfl, fun u is => exec_sli (s.placed u is)⟩
  | ml => exact ⟨s.setSt (mLayer s.tables s.st), rfl, fun u is => exec_ml (s.placed u is)⟩
  | sr => exact ⟨s.setSt (shiftRow s.tables s.st), rfl, fun u is => exec_sr (s.placed u is)⟩
  | sri => exact ⟨s.setSt (shiftRowInv s.tables s.st), rfl, fun u is => exec_sri (s.placed u is)⟩
  | xrc i =>
    have legal : ∀ j : BitVec 4, Instr.xrc j ∈ legalUops → j.toNat < 11 := by decide
    exact ⟨s.xorSt (s.tables.rc.get ⟨i.toNat, legal i hi⟩), rfl, fun u is => execXrc_of_lt (legal i hi) (s.placed u is)⟩
  | xk sel =>
    obtain rfl | rfl | rfl | rfl := selector_cases sel
    · exact ⟨s.xorSt s.k0r, rfl, fun u is => exec_xk_zero (s.placed u is)⟩
    · exact ⟨s.xorSt s.k1r, rfl, fun u is => exec_xk_one (s.placed u is)⟩
    · exact ⟨s.xorSt (s.k1r ^^^ s.tables.beta), rfl, fun u is => exec_xk_two (s.placed u is)⟩
    · exact absurd hi (by decide)
  | kflip => exact ⟨s.flipKeys, rfl, fun u is => exec_kflip (s.placed u is)⟩

/-- The meaning of a legal micro-operation at the state's own position and ports, beside `exec_placed`. -/
theorem exec_legal {i : Instr} (hi : i ∈ legalUops) (s : State) :
    ∃ t, exec i s = .next t ∧ SameButCipher s t ∧
      ∀ upc inputs, exec i (s.placed upc inputs) = .next (t.placed upc inputs) := by
  obtain ⟨t, same, next⟩ := exec_placed hi s
  have own : t.placed s.upc s.inputs = t := by rw [same]; rfl
  exact ⟨t, own ▸ next s.upc s.inputs, same, next⟩

/-- The micro-operations from a position of the sequence on (rule R104). -/
def romFrom (upc : Fin 60) : List Instr := (instrsOf microRom).drop upc.val

/-- Before the end of the sequence the next micro-operation is the legal one at UPC (rules R48, R105). -/
theorem romFrom_of_lt : ∀ {upc : Fin 60} (h : upc.val < 59),
    romInstr upc ∈ legalUops ∧ romFrom upc = romInstr upc :: romFrom ⟨upc.val + 1, by omega⟩ := by
  decide

/-- At the end of the sequence no micro-operation is left (rule R105). -/
theorem romFrom_end : romFrom 59 = [] := by decide

/-- The sequence holds legal micro-operations alone (rule R48). -/
theorem romFrom_subset_legalUops (upc : Fin 60) : romFrom upc ⊆ legalUops := by
  have legal : ∀ i ∈ instrsOf microRom, i ∈ legalUops := by decide
  exact fun i hi => legal i (List.mem_of_mem_drop hi)

/-- Legal micro-operations in a row answer a next state and write the cipher registers alone. -/
theorem runUops_legal {is : List Instr} (h : is ⊆ legalUops) (s : State) :
    ∃ t, runUops is s = .next t ∧ SameButCipher s t := by
  induction is generalizing s with
  | nil => exact ⟨s, rfl, rfl⟩
  | cons i is ih =>
    obtain ⟨hi, his⟩ := List.cons_subset.mp h
    obtain ⟨u, first, su, -⟩ := exec_legal hi s
    obtain ⟨t, rest, ut⟩ := ih his u
    exact ⟨t, (runUops_cons_of_next first is).trans rest, sameButCipher_trans su ut⟩

/-- The state once the rest of the micro-sequence has run, by the meanings (rules R104, R105). -/
def State.finishUops (s : State) : State :=
  match runUops (romFrom s.upc) s with
  | .next t => { t with upc := 59 }
  | .fault _ => s
  | .refused _ => s

/-- What the rest of the micro-sequence does is the run of its micro-operations, and it ends at UPC = 59 (rule R105). -/
theorem finishUops_of_run {s t : State} (h : runUops (romFrom s.upc) s = .next t) :
    s.finishUops = { t with upc := 59 } := by
  rw [State.finishUops, h]

/-- The rest of the micro-sequence writes the cipher registers and UPC alone (rules R105, R106). -/
theorem finishUops_eq (s : State) :
    s.finishUops = { s with upc := 59, st := s.finishUops.st, k0r := s.finishUops.k0r, k1r := s.finishUops.k1r } := by
  obtain ⟨t, run, same⟩ := runUops_legal (romFrom_subset_legalUops s.upc) s
  rw [finishUops_of_run run, same]

@[simp] theorem finishUops_phase (s : State) : s.finishUops.phase = s.phase := by rw [finishUops_eq]
@[simp] theorem finishUops_cnt (s : State) : s.finishUops.cnt = s.cnt := by rw [finishUops_eq]
@[simp] theorem finishUops_ov (s : State) : s.finishUops.ov = s.ov := by rw [finishUops_eq]
@[simp] theorem finishUops_res (s : State) : s.finishUops.res = s.res := by rw [finishUops_eq]
@[simp] theorem finishUops_upc (s : State) : s.finishUops.upc = 59 := by rw [finishUops_eq]

/-- At the end of the sequence nothing is left to run (rule R105). -/
theorem finishUops_of_end {s : State} (h : s.upc = 59) : s.finishUops = s := by
  have run : runUops (romFrom s.upc) s = .next s := by rw [h, romFrom_end]; rfl
  rw [finishUops_of_run run, ← h]

/-- From its start the micro-sequence leaves Core of the loaded values in ST (rules R100, R104). -/
theorem finishUops_st_of_start {s : State} (h : s.upc.val = 0) :
    s.finishUops.st = princeCore s.tables s.k0r s.k1r s.st s.mode := by
  have run : runUops (romFrom s.upc) s = .next (s.flipKeys.setSt (princeCore s.tables s.k0r s.k1r s.st s.mode)) := by
    rw [romFrom, h, List.drop_zero, runUops_microRom]
  rw [finishUops_of_run run, setSt_st]

/-! ### One clock cycle -/

/-- A step that is an edge ends the cycle. -/
theorem toEdge_of_edge {s t : State} (h : step s = .next t) (he : t.edges ≠ s.edges) (n : Nat) :
    toEdge (n + 1) s = .next t := by
  rw [toEdge, h]
  exact if_neg he

/-- A cycle goes on after a step that is no edge. -/
theorem toEdge_of_uop {s t : State} (h : step s = .next t) (he : t.edges = s.edges) (n : Nat) :
    toEdge (n + 1) s = toEdge n t := by
  rw [toEdge, h]
  exact if_pos he

/-- Moving UPC on from a position before the end of the sequence (rule R105). -/
theorem nextUop_placed (s : State) {upc : Fin 60} (hu : upc.val < 59) (inputs : List Inputs) :
    (s.placed upc inputs).nextUop = s.placed ⟨upc.val + 1, by omega⟩ inputs := by
  simp [State.nextUop, State.placed, hu]

/-- The busy and the completion step leave the edge count, which the edge itself moves on. -/
@[simp] theorem busyOrComplete_edges (s : State) : s.busyOrComplete.edges = s.edges := by
  obtain ⟨-, h⟩ | ⟨-, h⟩ := busyOrComplete_cases s
  · rw [h]
  · rw [h, complete_edges]

/-- While BUSY without reset, steps up to the edge run what is left of the micro-sequence, and then count down or complete
(rules R105, R111). -/
theorem toEdge_busy {s t : State} {upc : Fin 60} {i : Inputs} (is : List Inputs) (hp : s.phase = .busy)
    (hr : i.rst = false) (run : runUops (romFrom upc) s = .next t) {n : Nat} (hn : 60 ≤ upc.val + n) :
    toEdge n (s.placed upc (i :: is)) = .next (t.placed 59 (i :: is)).busyOrComplete.tick := by
  induction n generalizing s upc with
  | zero => omega
  | succ n ih =>
    by_cases hu : upc.val < 59
    · obtain ⟨legal, rom⟩ := romFrom_of_lt hu
      obtain ⟨u, first, same, placed⟩ := exec_legal legal s
      have hup : u.phase = .busy := by rw [same, hp]
      have rest : runUops (romFrom ⟨upc.val + 1, by omega⟩) u = .next t := by
        rw [← run, rom, runUops_cons_of_next first]
      have move : step (s.placed upc (i :: is)) = .next (u.placed ⟨upc.val + 1, by omega⟩ (i :: is)) := by
        rw [step_uop (s.placed upc (i :: is)) hr hp hu, ← nextUop_placed u hu, ← andThen_next, ← placed]
        rfl
      rw [toEdge_of_uop move (by rw [same]; rfl)]
      exact ih hup rest (by rw [Fin.val_mk]; omega)
    · obtain rfl : upc = 59 := Fin.ext (Nat.le_antisymm (Nat.le_of_lt_succ upc.isLt) (Nat.le_of_not_lt hu))
      rw [romFrom_end] at run
      obtain rfl : s = t := Host.Outcome.next.inj run
      exact toEdge_of_edge (step_busy (s.placed 59 (i :: is)) hr hp rfl) (by simp) n

/-- One clock cycle that has passed, with the edge counted. -/
def State.counted (s : State) : State := { s with edges := s.edges + 1 }

/-- A cycle that ends in a reset edge (rule R140). -/
theorem cycle_reset {i : Inputs} (hr : i.rst = true) (s : State) : cycle i s = .next s.resetRegs.counted :=
  toEdge_of_edge (step_reset { s with inputs := i :: s.inputs } hr) (by simp) 59

/-- The busy and the completion step read neither UPC nor the ports (rule R111). -/
theorem busyOrComplete_placed (s : State) (upc : Fin 60) (inputs : List Inputs) :
    (s.placed upc inputs).busyOrComplete = s.busyOrComplete.placed upc inputs := by
  obtain ⟨h, hs⟩ | ⟨h, hs⟩ := busyOrComplete_cases s
  · rw [hs]; exact if_pos h
  · rw [hs]; exact if_neg (Nat.not_lt.mpr h)

/-- What a cycle without reset does while BUSY: what is left of the micro-sequence, and an edge that counts down or
completes (rules R105, R111). -/
def State.busyEdge (s : State) : State := s.finishUops.busyOrComplete.counted

/-- A cycle while BUSY without reset is the busy edge, whatever else is on the ports (rules R111, R113). -/
theorem cycle_busy {s : State} {i : Inputs} (hp : s.phase = .busy) (hr : i.rst = false) :
    cycle i s = .next s.busyEdge := by
  obtain ⟨t, run, same⟩ := runUops_legal (romFrom_subset_legalUops s.upc) s
  have ports : t.inputs = s.inputs := by rw [same]
  calc cycle i s
    _ = .next (t.placed 59 (i :: s.inputs)).busyOrComplete.tick :=
        toEdge_busy s.inputs hp hr run (Nat.le_add_left 60 _)
    _ = .next (t.busyOrComplete.placed 59 s.inputs).counted := by rw [busyOrComplete_placed]; rfl
    _ = .next (t.placed 59 s.inputs).busyOrComplete.counted := by rw [busyOrComplete_placed]
    _ = .next s.busyEdge := by rw [State.busyEdge, finishUops_of_run run, ← ports]; rfl

/-! ### Busy edges in a row -/

/-- An edge before the last counts down by one and leaves the result to come as it is (rule R111). -/
theorem busyEdge_of_lt {s : State} (h : 1 < s.cnt) :
    s.busyEdge.phase = s.phase ∧ s.busyEdge.cnt = s.cnt - 1 ∧ s.busyEdge.ov = s.ov ∧ s.busyEdge.res = s.res ∧
      s.busyEdge.finishUops.st = s.finishUops.st := by
  have count : s.busyEdge = { s.finishUops with cnt := s.cnt - 1, edges := s.finishUops.edges + 1 } := by
    obtain ⟨-, hs⟩ | ⟨hle, -⟩ := busyOrComplete_cases s.finishUops
    · rw [State.busyEdge, hs, finishUops_cnt]; rfl
    · rw [finishUops_cnt] at hle; omega
  have done : s.busyEdge.upc = 59 := by rw [count, finishUops_upc]
  rw [finishUops_of_end done, count]
  simp

/-- The last edge writes the result, sets OV and returns to IDLE (rule R111). -/
theorem busyEdge_of_le {s : State} (h : s.cnt ≤ 1) :
    s.busyEdge.phase = .idle ∧ s.busyEdge.ov = true ∧ s.busyEdge.res = s.finishUops.st := by
  have last : s.busyEdge = s.finishUops.complete.counted := by
    obtain ⟨hlt, -⟩ | ⟨-, hs⟩ := busyOrComplete_cases s.finishUops
    · rw [finishUops_cnt] at hlt; omega
    · rw [State.busyEdge, hs]
  rw [last]
  exact ⟨rfl, rfl, rfl⟩

/-- Before the last edge each has counted down by one, and the result to come is that of the first state (rule R111). -/
theorem iterate_busyEdge_of_lt {s : State} {n : Nat} (h : n < s.cnt) :
    (State.busyEdge^[n] s).phase = s.phase ∧ (State.busyEdge^[n] s).cnt = s.cnt - n ∧
      (State.busyEdge^[n] s).ov = s.ov ∧ (State.busyEdge^[n] s).res = s.res ∧
      (State.busyEdge^[n] s).finishUops.st = s.finishUops.st := by
  induction n with
  | zero => exact ⟨rfl, rfl, rfl, rfl, rfl⟩
  | succ n ih =>
    obtain ⟨phase, cnt, ov, res, st⟩ := ih (by omega)
    obtain ⟨phase', cnt', ov', res', st'⟩ := busyEdge_of_lt (s := State.busyEdge^[n] s) (by omega)
    rw [Function.iterate_succ_apply']
    exact ⟨phase'.trans phase, by omega, ov'.trans ov, res'.trans res, st'.trans st⟩

/-- As many edges as CNT says complete the command, with the result to come of the first state (rule R111). -/
theorem iterate_busyEdge_cnt {s : State} (h : 1 ≤ s.cnt) :
    (State.busyEdge^[s.cnt] s).phase = .idle ∧ (State.busyEdge^[s.cnt] s).ov = true ∧
      (State.busyEdge^[s.cnt] s).res = s.finishUops.st := by
  obtain ⟨n, hn⟩ := Nat.exists_eq_add_of_le' h
  obtain ⟨-, cnt, -, -, st⟩ := iterate_busyEdge_of_lt (s := s) (n := n) (by omega)
  rw [hn, Function.iterate_succ_apply', ← st]
  exact busyEdge_of_le (by omega)

/-- Cycles without reset while BUSY are busy edges, up to the completion edge (rules R111, R113). -/
theorem cycles_busy {s : State} {is : List Inputs} (hp : s.phase = .busy) (hr : NoReset is) (hn : is.length ≤ s.cnt) :
    cycles is s = .next (State.busyEdge^[is.length] s) := by
  induction is generalizing s with
  | nil => rfl
  | cons i is ih =>
    obtain ⟨hi, his⟩ := List.forall_mem_cons.mp hr
    rw [cycles, cycle_busy hp hi]
    cases is with
    | nil => rfl
    | cons j is =>
      rw [List.length_cons, List.length_cons] at hn
      obtain ⟨phase, cnt, -, -, -⟩ := busyEdge_of_lt (s := s) (by omega)
      exact ih (phase.trans hp) his (by rw [List.length_cons]; omega)

/-- A command with nothing of the micro-sequence run completes with Core of its loaded values at the edge CNT says
(rules R104, R111). -/
theorem cycles_complete {s : State} {is : List Inputs} (hp : s.phase = .busy) (hu : s.upc.val = 0) (hc : 1 ≤ s.cnt)
    (hn : is.length = s.cnt) (hr : NoReset is) :
    ∃ t, cycles is s = .next t ∧ t.phase = .idle ∧ t.ov = true ∧
      t.res = princeCore s.tables s.k0r s.k1r s.st s.mode := by
  have last := iterate_busyEdge_cnt hc
  rw [← hn, finishUops_st_of_start hu] at last
  exact ⟨_, cycles_busy hp hr hn.le, last⟩

end Sys2Proof.Machine
end

section
/-! PROOF. The commands at the edges: the accept edge and the hold edge (rules R110, R112), what is ignored (rules R113,
R146), and ENC and DEC from their accept state to their result (rules R107, R108). -/

namespace Sys2Proof.Machine

/-- Settles O37: the cycles are busy edges (`cycles_busy`), which `iterate_busyEdge_of_lt` counts, and the last completes
(`cycles_complete`). -/
theorem busyEdgesCountDownAndComplete : Obligations.BusyEdgesCountDownAndComplete := by
  intro s is hp hu hc hn hr
  refine ⟨fun n hlt => ?_, cycles_complete hp hu hc hn hr⟩
  have length : (is.take n).length = n := by rw [List.length_take]; omega
  have run : cycles (is.take n) s = .next (State.busyEdge^[n] s) := by
    rw [cycles_busy hp (fun i hi => hr i (List.mem_of_mem_take hi)) (by omega), length]
  obtain ⟨phase, cnt, ov, res, -⟩ := iterate_busyEdge_of_lt hlt
  exact ⟨_, run, phase.trans hp, cnt, ov, res⟩

/-- ENC offers its key and block for encryption (rule R107). -/
theorem exec_enc (k0 k1 d : Block) (s : State) : exec (.enc k0 k1 d) s = .next (s.offer .forward k0 k1 d) := rfl

/-- DEC offers its key and block for decryption (rule R108). -/
theorem exec_dec (k0 k1 d : Block) (s : State) : exec (.dec k0 k1 d) s = .next (s.offer .backward k0 k1 d) := rfl

/-- A command presented to a CORE that is not ready is ignored (rule R113). -/
theorem exec_command_of_not_ready (k0 k1 d : Block) {s : State} (h : s.inReady = false) :
    exec (.enc k0 k1 d) s = .next s ∧ exec (.dec k0 k1 d) s = .next s := by
  rw [exec_enc, exec_dec, offer_of_not_ready s _ k0 k1 d h, offer_of_not_ready s _ k0 k1 d h]
  exact ⟨rfl, rfl⟩

/-- Settles O39: a reset edge and a busy edge are the same for all ports (`cycle_reset`, `cycle_busy`), and the meanings
are `exec_command_of_not_ready`. -/
theorem commandsAreIgnoredWhileNotReady : Obligations.CommandsAreIgnoredWhileNotReady := by
  refine ⟨fun s i j hij notReady => ?_, fun k0 k1 d s notReady => exec_command_of_not_ready k0 k1 d notReady⟩
  cases hr : i.rst with
  | true => exact ⟨_, cycle_reset hr s, cycle_reset (hij ▸ hr) s⟩
  | false =>
    have busy : s.phase = .busy := by
      cases hp : s.phase with
      | idle => simp [State.readyAt, hp, hr] at notReady
      | busy => rfl
    exact ⟨_, cycle_busy busy hr, cycle_busy busy (hij ▸ hr)⟩

/-- Settles O38: the hold edge is the passing of an edge alone (`step_hold`). -/
theorem holdEdgeChangesNothing : Obligations.HoldEdgeChangesNothing :=
  fun s hp hr hv => step_hold s hr hp hv

/-- The accept edge loads the command on the ports (rules R41, R110). -/
theorem step_accept {s : State} (hp : s.phase = .idle) (hr : s.ports.rst = false) (hv : s.ports.inValid = true) :
    step s = .next (s.accept (modeOf s.ports.inMode) (keyHalf0 s.ports.inKey) (keyHalf1 s.ports.inKey)
      s.ports.inData).tick := by
  have ready : s.inReady = true := (inReady_iff s).mpr ⟨hp, hr⟩
  rw [step_command s hr hp hv, decodeCmd_ports, ← offer_of_ready s _ _ _ _ ready]
  cases s.ports.inMode with
  | false => rfl
  | true => rfl

/-- Settles O36: the accept edge is `step_accept`, and the cycles after it are as many busy edges whatever the ports hold
(`cycles_busy`). -/
theorem acceptEdgeLoadsTheCommand : Obligations.AcceptEdgeLoadsTheCommand := by
  intro s hp hr hv
  refine ⟨_, step_accept hp hr hv, ?registers, fun is js his hjs same bound => ?sampledOnce⟩
  case registers =>
    cases s.ports.inMode with
    | false => rfl
    | true => rfl
  case sampledOnce =>
    exact ⟨_, cycles_busy rfl his bound, by rw [same]; exact cycles_busy rfl hjs (same ▸ bound)⟩

/-- An accepted command shows Core of its loaded keys and block after LATENCY cycles without reset (rules R110, R111). -/
theorem cycles_accept {s : State} {m : Mode} (k0 k1 d : Block) (hl : s.latency.Lawful) {is : List Inputs}
    (hn : is.length = latencyOf s.latency m) (hr : NoReset is) :
    ∃ t, cycles is (s.accept m k0 k1 d) = .next t ∧ t.outValid = true ∧
      t.outData = princeCore s.tables (loadedKeys s.tables m k0 k1).1 (loadedKeys s.tables m k0 k1).2 d m := by
  have count : 1 ≤ (s.accept m k0 k1 d).cnt := by
    cases m with
    | forward => exact hl.1
    | backward => exact hl.2
  obtain ⟨t, run, -, ov, res⟩ := cycles_complete (s := s.accept m k0 k1 d) rfl rfl count hn hr
  exact ⟨t, run, ov, by rw [State.outData, ov]; exact res⟩

/-- Settles O34: the encoding through `decodeCmd_encodeCmd`, the accept state through `offer_of_ready`, the result through
`cycles_accept`. -/
theorem encRunsToItsResult : Obligations.EncRunsToItsResult := by
  refine ⟨fun k0 k1 d => congrArg Except.ok (decodeCmd_encodeCmd false k0 k1 d), fun k0 k1 d s hp hr hl => ?_,
    fun k0 k1 d s notReady => (exec_command_of_not_ready k0 k1 d notReady).1, by decide +kernel⟩
  have ready : s.inReady = true := (inReady_iff s).mpr ⟨hp, hr⟩
  refine ⟨s.accept .forward k0 k1 d, congrArg _ (offer_of_ready s _ k0 k1 d ready), rfl, fun is hn hr => ?_⟩
  obtain ⟨t, run, valid, result⟩ := cycles_accept (m := .forward) k0 k1 d hl hn hr
  exact ⟨t, run, valid, result, result⟩

/-- Settles O35: the lemmas of O34 for the other mode, where the accept state holds the decryption key. -/
theorem decRunsToItsResult : Obligations.DecRunsToItsResult := by
  refine ⟨fun k0 k1 d => congrArg Except.ok (decodeCmd_encodeCmd true k0 k1 d), fun k0 k1 d s hp hr hl => ?_,
    fun k0 k1 d s notReady => (exec_command_of_not_ready k0 k1 d notReady).2, by decide +kernel⟩
  have ready : s.inReady = true := (inReady_iff s).mpr ⟨hp, hr⟩
  refine ⟨s.accept .backward k0 k1 d, congrArg _ (offer_of_ready s _ k0 k1 d ready), rfl, fun is hn hr => ?_⟩
  obtain ⟨t, run, valid, result⟩ := cycles_accept (m := .backward) k0 k1 d hl hn hr
  exact ⟨t, run, valid, result, result⟩

end Sys2Proof.Machine
end

section
/-! PROOF. Nothing can fail: which operands are reserved, said once, and the outcome of every command, micro-operation and
step (rules R48, R120). -/

namespace Sys2Proof

/-- The indexes of XRC that are legal (rule R47). -/
theorem wellFormed_xrc_iff (i : BitVec 4) : (Instr.xrc i).WellFormed ↔ i.toNat ≤ 10 := by
  simp [Instr.WellFormed, Instr.illFormed]

/-- The selectors of XK that are legal (rule R47). -/
theorem wellFormed_xk_iff (sel : BitVec 2) : (Instr.xk sel).WellFormed ↔ sel ≠ 3#2 := by
  simp [Instr.WellFormed, Instr.illFormed]

/-- The indexes of XRC that are reserved, and why (rule R48). -/
theorem illFormed_xrc_eq_some_iff (i : BitVec 4) (r : Reserved) :
    (Instr.xrc i).illFormed = some r ↔ 11 ≤ i.toNat ∧ .rcIndex = r := by
  simp [Instr.illFormed, Nat.succ_le_iff]

/-- The selector of XK that is reserved, and why (rule R48). -/
theorem illFormed_xk_eq_some_iff (sel : BitVec 2) (r : Reserved) :
    (Instr.xk sel).illFormed = some r ↔ sel = 3#2 ∧ .keySelect = r := by
  simp [Instr.illFormed]

/-- Every command vector is a legal command (rules R43, R44, R120). -/
theorem decodeCmd_wellFormed (w : CmdWord) : (decodeCmd w).WellFormed := by
  cases h : cmdMode w with
  | false => rw [decodeCmd_of_mode_false h]; rfl
  | true => rw [decodeCmd_of_mode_true h]; rfl

end Sys2Proof

namespace Sys2Proof.Machine

/-- Each selector of XK but 11 names a key value (rule R47). -/
theorem exists_keyOperand_of_ne {sel : BitVec 2} (h : sel ≠ 3#2) (s : State) : ∃ v, keyOperand s sel = some v := by
  obtain rfl | rfl | rfl | rfl := selector_cases sel
  · exact ⟨_, keyOperand_zero s⟩
  · exact ⟨_, keyOperand_one s⟩
  · exact ⟨_, keyOperand_two s⟩
  · exact absurd rfl h

/-- A command or a micro-operation with a legal operand answers a next state (rule R120). -/
theorem exec_of_wellFormed {i : Instr} (h : i.WellFormed) (s : State) : ∃ t, exec i s = .next t := by
  cases i with
  | enc k0 k1 d => exact ⟨_, exec_enc k0 k1 d s⟩
  | dec k0 k1 d => exact ⟨_, exec_dec k0 k1 d s⟩
  | sl => exact ⟨_, exec_sl s⟩
  | sli => exact ⟨_, exec_sli s⟩
  | ml => exact ⟨_, exec_ml s⟩
  | sr => exact ⟨_, exec_sr s⟩
  | sri => exact ⟨_, exec_sri s⟩
  | xrc i => exact ⟨_, execXrc_of_lt (Nat.lt_succ_of_le ((wellFormed_xrc_iff i).mp h)) s⟩
  | xk sel =>
    obtain ⟨v, key⟩ := exists_keyOperand_of_ne ((wellFormed_xk_iff sel).mp h) s
    exact ⟨_, execXk_of_keyOperand key⟩
  | kflip => exact ⟨_, exec_kflip s⟩

/-- A reserved operand, which XRC and XK alone have, is refused with its reason (rules R48, R120). -/
theorem exec_of_illFormed {i : Instr} {r : Reserved} (h : i.illFormed = some r) (s : State) :
    exec i s = .refused (.reservedUop r) := by
  cases i with
  | xrc i =>
    obtain ⟨index, rfl⟩ := (illFormed_xrc_eq_some_iff i r).mp h
    exact execXrc_of_ge index s
  | xk sel =>
    obtain ⟨rfl, rfl⟩ := (illFormed_xk_eq_some_iff sel r).mp h
    exact execXk_three s
  | _ => cases h

/-- What a step adds to a well-formed instruction's meaning takes no answer away. -/
theorem andThen_exec_of_wellFormed {i : Instr} (h : i.WellFormed) (s : State) (f : State → State) :
    ∃ t, andThen (exec i s) f = .next t := by
  obtain ⟨t, next⟩ := exec_of_wellFormed h s
  exact ⟨f t, by rw [next, andThen_next]⟩

/-- Every step answers a next state: the command on the ports and the micro-operation at UPC are legal (rule R120). -/
theorem step_total (s : State) : ∃ t, step s = .next t := by
  obtain ⟨-, hs⟩ | ⟨-, -, -, hs⟩ | ⟨-, -, -, hs⟩ | ⟨-, -, hu, hs⟩ | ⟨-, -, -, hs⟩ := step_cases s
  · exact ⟨_, hs⟩
  · rw [hs]
    exact andThen_exec_of_wellFormed (decodeCmd_wellFormed s.ports.cmd) s State.tick
  · exact ⟨_, hs⟩
  · obtain ⟨-, -, -, legal⟩ := rom_decodes s.upc hu
    rw [hs]
    exact andThen_exec_of_wellFormed legal s State.nextUop
  · exact ⟨_, hs⟩

/-- Settles O49: the vectors through `decodeCmd_wellFormed`, the steps through `step_total`, the meanings through
`exec_of_wellFormed` and `exec_of_illFormed`. -/
theorem nothingCanFail : Obligations.NothingCanFail :=
  ⟨fun w => ⟨decodeCmd w, rfl, decodeCmd_wellFormed w⟩, step_total, fun _ s legal => exec_of_wellFormed legal s,
    fun _ s _ reserved => exec_of_illFormed reserved s⟩

end Sys2Proof.Machine
end

section
/-! PROOF. The order of reset, accept, busy and hold at one edge (rule R123). -/

namespace Sys2Proof.Machine

/-- A cycle in IDLE without reset and with a command on the ports accepts it (rules R110, R123). -/
theorem cycle_accept {s : State} {i : Inputs} (hp : s.phase = .idle) (hr : i.rst = false) (hv : i.inValid = true) :
    cycle i s =
      .next (s.accept (modeOf i.inMode) (keyHalf0 i.inKey) (keyHalf1 i.inKey) i.inData).counted :=
  toEdge_of_edge (step_accept (s := { s with inputs := i :: s.inputs }) hp hr hv) (by simp) 59

/-- A cycle in IDLE without reset and without a command is the passing of its edge alone (rules R112, R123). -/
theorem cycle_hold {s : State} {i : Inputs} (hp : s.phase = .idle) (hr : i.rst = false) (hv : i.inValid = false) :
    cycle i s = .next s.counted :=
  toEdge_of_edge (step_hold { s with inputs := i :: s.inputs } hr hp hv) (by simp) 59

/-- Settles O45: each clause is the cycle of its condition (`cycle_reset`, `cycle_accept`, `cycle_busy` before and at
CNT = 1, `cycle_hold`), and after the completion edge `cycle_accept` takes the next command. -/
theorem edgePriority : Obligations.EdgePriority := by
  refine fun s i => ⟨fun hr => ?reset, fun hr hp hv => ?accept, fun hr hp hc => ?busy, fun hr hp hc => ?completion,
    fun hr hp hv => cycle_hold hp hr hv⟩
  case reset => exact ⟨_, cycle_reset hr s, rfl, rfl⟩
  case accept => exact ⟨_, cycle_accept hp hr hv, rfl, rfl, rfl⟩
  case busy =>
    obtain ⟨phase, cnt, ov, -, -⟩ := busyEdge_of_lt hc
    exact ⟨_, cycle_busy hp hr, phase.trans hp, cnt, ov⟩
  case completion =>
    obtain ⟨phase, ov, -⟩ := busyEdge_of_le hc.le
    exact ⟨_, cycle_busy hp hr, phase, ov, fun j hj hv => ⟨_, cycle_accept phase hj hv, rfl, rfl⟩⟩

end Sys2Proof.Machine
end

section
/-! PROOF. The reset edge and what follows it without a command (rules R140, R141). -/

namespace Sys2Proof.Machine

/-- A CORE whose reset is driven is not ready, in either phase (rule R16). -/
theorem inReady_of_rst {s : State} (hr : s.ports.rst = true) : s.inReady = false := by
  rw [State.inReady, State.readyAt, hr, Bool.not_true, Bool.and_false]

/-- An IDLE CORE is ready when reset is not driven (rule R16). -/
theorem readyAt_false_of_idle {s : State} (hp : s.phase = .idle) : s.readyAt false = true := by
  rw [State.readyAt, hp]
  rfl

/-- Settles O42: the edge is `step_reset`, which reads neither the phase nor the other ports. -/
theorem resetEdgeFromEveryState : Obligations.ResetEdgeFromEveryState :=
  fun s hr => ⟨inReady_of_rst hr, s.resetRegs.tick, step_reset s hr, rfl, rfl, rfl, readyAt_false_of_idle rfl, rfl⟩

/-- Any number of cycles in IDLE without reset and without a command changes the edge count alone (rule R112). -/
theorem cycles_hold {s : State} {quiet : List Inputs} (hp : s.phase = .idle) (hq : Quiet quiet) :
    cycles quiet s = .next { s with edges := s.edges + quiet.length } := by
  induction quiet generalizing s with
  | nil => rfl
  | cons i quiet ih =>
    obtain ⟨⟨hr, hv⟩, rest⟩ := List.forall_mem_cons.mp hq
    rw [cycles, cycle_hold hp hr hv]
    have count : s.edges + 1 + quiet.length = s.edges + (i :: quiet).length := by
      rw [List.length_cons]; omega
    rw [← count]
    exact ih (s := s.counted) hp rest

/-- Settles O43: the reset edge drops the command whatever CNT is (`cycle_reset`), and without a new command nothing
raises OV again (`cycles_hold`). -/
theorem resetAbortsTheCommand : Obligations.ResetAbortsTheCommand := by
  intro s r quiet _ hr hq
  have held := cycles_hold (s := s.resetRegs.counted) rfl hq
  exact ⟨_, by rw [cycles, cycle_reset hr]; exact held, rfl, readyAt_false_of_idle rfl⟩

end Sys2Proof.Machine
end

section
/-! PROOF. The encoder and the decoder undo each other (rules R41 to R48). -/

namespace Sys2Proof

/-! ### Decoding after encoding -/

/-- The word of a well-formed instruction decodes to it: commands by the mode bit, micro-operations by the opcode map
(rules R43, R46, R47). -/
theorem decode_encode {i : Instr} (h : i.WellFormed) : decode (encode i) = .ok i := by
  cases i with
  | enc k0 k1 d => exact congrArg Except.ok (decodeCmd_encodeCmd false k0 k1 d)
  | dec k0 k1 d => exact congrArg Except.ok (decodeCmd_encodeCmd true k0 k1 d)
  | xrc i => exact (decodeUop_encodeUop 6#4 i).trans (decodeXrc_of_le ((wellFormed_xrc_iff i).mp h))
  | xk sel => exact (decodeUop_encodeUop 7#4 _).trans (decodeXk_of_ne ((wellFormed_xk_iff sel).mp h))
  | _ => exact decodeUop_encodeUop _ 0#4

/-- Settles O5: the round trip is `decode_encode`. -/
theorem decodeAfterEncode : Obligations.DecodeAfterEncode :=
  fun _ => decode_encode

/-- Settles O2: each word is the encoded word of its instruction (`decode_encode`). -/
theorem wordsWrittenOutDecode : Obligations.WordsWrittenOutDecode :=
  ⟨decode_encode (i := .enc _ _ _) rfl, decode_encode (i := .dec _ _ _) rfl, decode_encode (i := .sl) rfl,
    decode_encode (i := .sli) rfl, decode_encode (i := .ml) rfl, decode_encode (i := .sr) rfl,
    decode_encode (i := .sri) rfl, decode_encode (i := .xrc 10#4) rfl, decode_encode (i := .xk 2#2) rfl,
    decode_encode (i := .kflip) rfl⟩

/-! ### Encoding after decoding -/

/-- The fields of a command vector, put together in order, are the vector (rules R41, R42). -/
theorem encodeCmd_cmdFields (w : CmdWord) : encodeCmd (cmdMode w) (cmdK0 w) (cmdK1 w) (cmdData w) = w := by
  have top : BitVec.ofBool (cmdMode w) = w.extractLsb' 192 1 := by
    refine BitVec.eq_of_getLsbD_eq fun j hj => ?_
    obtain rfl : j = 0 := Nat.lt_one_iff.mp hj
    rw [BitVec.getLsbD_ofBool, BitVec.getLsbD_extractLsb', cmdMode]
    simp
  calc BitVec.ofBool (cmdMode w) ++ w.extractLsb' 128 64 ++ w.extractLsb' 64 64 ++ w.extractLsb' 0 64
    _ = w.extractLsb' 128 65 ++ w.extractLsb' 64 64 ++ w.extractLsb' 0 64 := by
      rw [top, BitVec.extractLsb'_append_extractLsb'_eq_extractLsb' (by decide)]
    _ = w.extractLsb' 64 129 ++ w.extractLsb' 0 64 := by
      rw [BitVec.extractLsb'_append_extractLsb'_eq_extractLsb' (by decide)]
    _ = w.extractLsb' 0 193 := by
      rw [BitVec.extractLsb'_append_extractLsb'_eq_extractLsb' (by decide)]
    _ = w := BitVec.extractLsb'_eq_self

/-- The fields of a UOP word with z = 0000, put together in order, are the word (rule R45). -/
theorem encodeUop_uopFields {w : UopWord} (h : uopZ w = 0#4) : encodeUop (uopOp w) (uopArg w) = w := by
  calc encodeUop (uopOp w) (uopArg w)
    _ = w.extractLsb' 8 4 ++ w.extractLsb' 4 4 ++ w.extractLsb' 0 4 := by rw [encodeUop, ← h]; rfl
    _ = w.extractLsb' 4 8 ++ w.extractLsb' 0 4 := by
      rw [BitVec.extractLsb'_append_extractLsb'_eq_extractLsb' (by decide)]
    _ = w.extractLsb' 0 12 := by
      rw [BitVec.extractLsb'_append_extractLsb'_eq_extractLsb' (by decide)]
    _ = w := BitVec.extractLsb'_eq_self

/-- A micro-operation without operand decodes only with arg 0000 (rule R47). -/
theorem decodePlain_eq_ok {arg : BitVec 4} {i j : Instr} (h : decodePlain arg i = .ok j) : arg = 0#4 ∧ i = j := by
  rw [decodePlain] at h
  split at h
  case isTrue zero => exact ⟨zero, Except.ok.inj h⟩
  case isFalse => cases h

/-- XRC decodes only with an index that is legal, and to that index (rule R47). -/
theorem decodeXrc_eq_ok {arg : BitVec 4} {i : Instr} (h : decodeXrc arg = .ok i) : arg.toNat ≤ 10 ∧ .xrc arg = i := by
  rw [decodeXrc] at h
  split at h
  case isTrue legal => exact ⟨legal, Except.ok.inj h⟩
  case isFalse => cases h

/-- XK decodes only with a selector that names a key, and arg is that selector with zeros above it (rule R47). -/
theorem decodeXk_eq_ok {arg : BitVec 4} {i : Instr} (h : decodeXk arg = .ok i) :
    ∃ sel : BitVec 2, sel ≠ 3#2 ∧ arg = sel.setWidth 4 ∧ .xk sel = i := by
  have widen : ∀ a : BitVec 4, a.extractLsb' 2 2 = 0#2 → a = (a.extractLsb' 0 2).setWidth 4 := by decide
  rw [decodeXk] at h
  split_ifs at h with high reserved
  exact ⟨_, reserved, widen arg (not_not.mp high), Except.ok.inj h⟩

/-- What the opcode map reads from an opcode and an operand is a well-formed micro-operation whose word they form
(rules R46, R47). -/
theorem encode_of_decodeOp {op arg : BitVec 4} {i : Instr} (h : decodeOp op arg = .ok i) :
    i.WellFormed ∧ encode i = .uop (encodeUop op arg) := by
  rw [decodeOp] at h
  split at h
  case h_6 hop =>
    obtain rfl : op = 6#4 := BitVec.eq_of_toNat_eq hop
    obtain ⟨legal, rfl⟩ := decodeXrc_eq_ok h
    exact ⟨(wellFormed_xrc_iff arg).mpr legal, rfl⟩
  case h_7 hop =>
    obtain rfl : op = 7#4 := BitVec.eq_of_toNat_eq hop
    obtain ⟨sel, legal, rfl, rfl⟩ := decodeXk_eq_ok h
    exact ⟨(wellFormed_xk_iff sel).mpr legal, rfl⟩
  case h_9 => cases h
  all_goals
    next hop =>
    obtain ⟨rfl, rfl⟩ := decodePlain_eq_ok h
    rw [← BitVec.setWidth_eq op, ← BitVec.ofNat_toNat, hop]
    exact ⟨rfl, rfl⟩

/-- A UOP word that decodes is the word of the well-formed micro-operation it decodes to (rules R45 to R48). -/
theorem encode_of_decodeUop {w : UopWord} {i : Instr} (h : decodeUop w = .ok i) :
    i.WellFormed ∧ encode i = .uop w := by
  rw [decodeUop] at h
  split_ifs at h with z
  rw [← encodeUop_uopFields z]
  exact encode_of_decodeOp h

/-- A command vector is the word of the command it decodes to (rules R41 to R43). -/
theorem encode_decodeCmd (w : CmdWord) : encode (decodeCmd w) = .cmd w := by
  have fields := encodeCmd_cmdFields w
  cases mode : cmdMode w with
  | false => rw [mode] at fields; rw [decodeCmd_of_mode_false mode, encode, fields]
  | true => rw [mode] at fields; rw [decodeCmd_of_mode_true mode, encode, fields]

/-- Settles O6: command vectors through `encode_decodeCmd`, UOP words through `encode_of_decodeUop`. -/
theorem encodeAfterDecode : Obligations.EncodeAfterDecode := by
  intro e i h
  cases e with
  | cmd w =>
    obtain rfl : decodeCmd w = i := Except.ok.inj h
    exact ⟨decodeCmd_wellFormed w, encode_decodeCmd w⟩
  | uop w => exact encode_of_decodeUop h

end Sys2Proof
end

section
/-! PROOF. What a step leads to, said once: the meanings of the micro-operations by the registers they read, and the next
state of every step (rules R105, R110 to R112, R123, R140). From it the invariant of the sequencer, OV, RES and LATENCY. -/

namespace Sys2Proof.Machine

/-! ### What a micro-operation reads and writes -/

/-- ST, K0R and K1R, the registers that micro-operations write. -/
def State.cipher (s : State) : Block × Block × Block := (s.st, s.k0r, s.k1r)

/-- The state with other values in ST, K0R and K1R. -/
def State.withCipher (s : State) (c : Block × Block × Block) : State :=
  { s with st := c.1, k0r := c.2.1, k1r := c.2.2 }

/-- A legal micro-operation writes ST, K0R and K1R by a function of the tables, MODE and these registers alone
(rules R71 to R82). -/
theorem exec_legal_reads {i : Instr} (hi : i ∈ legalUops) :
    ∃ f : Tables → Mode → Block × Block × Block → Block × Block × Block,
      ∀ s, exec i s = .next (s.withCipher (f s.tables s.mode s.cipher)) := by
  cases i with
  | enc k0 k1 d => simp [legalUops] at hi
  | dec k0 k1 d => simp [legalUops] at hi
  | sl => exact ⟨fun t _ c => (sLayer t c.1, c.2), exec_sl⟩
  | sli => exact ⟨fun t _ c => (sLayerInv t c.1, c.2), exec_sli⟩
  | ml => exact ⟨fun t _ c => (mLayer t c.1, c.2), exec_ml⟩
  | sr => exact ⟨fun t _ c => (shiftRow t c.1, c.2), exec_sr⟩
  | sri => exact ⟨fun t _ c => (shiftRowInv t c.1, c.2), exec_sri⟩
  | xrc i =>
    have legal : ∀ j : BitVec 4, Instr.xrc j ∈ legalUops → j.toNat < 11 := by decide
    exact ⟨fun t _ c => (c.1 ^^^ t.rc.get ⟨i.toNat, legal i hi⟩, c.2), execXrc_of_lt (legal i hi)⟩
  | xk sel =>
    obtain rfl | rfl | rfl | rfl := selector_cases sel
    · exact ⟨fun _ _ c => (c.1 ^^^ c.2.1, c.2), exec_xk_zero⟩
    · exact ⟨fun _ _ c => (c.1 ^^^ c.2.2, c.2), exec_xk_one⟩
    · exact ⟨fun t _ c => (c.1 ^^^ (c.2.2 ^^^ t.beta), c.2), exec_xk_two⟩
    · exact absurd hi (by decide)
  | kflip => exact ⟨fun t m c => (c.1, flipHalf t m c.2.1, flipHalf t m c.2.2), exec_kflip⟩

/-- The word at a position before the end decodes to a micro-operation that writes the cipher registers by a function of
the tables, MODE and these registers alone, and the step there runs it (rule R105). -/
theorem step_uop_reads (upc : Fin 60) (hu : upc.val < 59) :
    ∃ f : Tables → Mode → Block × Block × Block → Block × Block × Block,
      ∀ s : State, s.ports.rst = false → s.phase = .busy → s.upc = upc →
        step s = .next (s.withCipher (f s.tables s.mode s.cipher)).nextUop := by
  obtain ⟨f, next⟩ := exec_legal_reads (romFrom_of_lt hu).1
  refine ⟨f, fun s hr hp hs => ?_⟩
  rw [step_uop s hr hp (hs ▸ hu), hs, next, andThen_next]

/-! ### The next state of every step -/

/-- Every step leads to one of five states: that of a reset edge, an accept edge, a hold edge, a micro-operation, or a
busy or completion edge (rule R123). -/
theorem step_next_cases {s t : State} (h : step s = .next t) :
    (s.ports.rst = true ∧ t = s.resetRegs.tick) ∨
    (s.ports.rst = false ∧ s.phase = .idle ∧ s.ports.inValid = true ∧
      t = (s.accept (modeOf s.ports.inMode) (keyHalf0 s.ports.inKey) (keyHalf1 s.ports.inKey) s.ports.inData).tick) ∨
    (s.ports.rst = false ∧ s.phase = .idle ∧ s.ports.inValid = false ∧ t = s.tick) ∨
    (s.ports.rst = false ∧ s.phase = .busy ∧ s.upc.val < 59 ∧ ∃ c, t = (s.withCipher c).nextUop) ∨
    (s.ports.rst = false ∧ s.phase = .busy ∧ s.upc.val = 59 ∧ t = s.busyOrComplete.tick) := by
  obtain ⟨hr, hs⟩ | ⟨hr, hp, hv, -⟩ | ⟨hr, hp, hv, hs⟩ | ⟨hr, hp, hu, -⟩ | ⟨hr, hp, hu, hs⟩ := step_cases s
  · exact .inl ⟨hr, Host.Outcome.next.inj (h.symm.trans hs)⟩
  · exact .inr (.inl ⟨hr, hp, hv, Host.Outcome.next.inj (h.symm.trans (step_accept hp hr hv))⟩)
  · exact .inr (.inr (.inl ⟨hr, hp, hv, Host.Outcome.next.inj (h.symm.trans hs)⟩))
  · obtain ⟨f, next⟩ := step_uop_reads s.upc hu
    exact .inr (.inr (.inr (.inl ⟨hr, hp, hu, _, Host.Outcome.next.inj (h.symm.trans (next s hr hp rfl))⟩)))
  · exact .inr (.inr (.inr (.inr ⟨hr, hp, hu, Host.Outcome.next.inj (h.symm.trans hs)⟩)))

/-! ### The invariant of the sequencer -/

/-- A state that is IDLE meets the invariant when LATENCY is lawful (rule R4). -/
theorem inv_of_idle {s : State} (hl : s.latency.Lawful) (hp : s.phase = .idle) : Inv s := by
  have idle : s.phase ≠ .busy := by rw [hp]; exact Phase.noConfusion
  exact ⟨hl, fun busy => absurd busy idle, fun busy => absurd busy idle⟩

/-- A lawful LATENCY is at least 1 in either mode (rule R4). -/
theorem one_le_latencyOf {l : Latency} (hl : l.Lawful) (m : Mode) : 1 ≤ latencyOf l m := by
  cases m with
  | forward => exact hl.1
  | backward => exact hl.2

/-- The busy or completion edge of a BUSY state keeps the invariant: CNT stays at least 1 or the phase is IDLE
(rules R14, R111). -/
theorem inv_busyOrComplete {s : State} (h : Inv s) (hp : s.phase = .busy) : Inv s.busyOrComplete := by
  obtain ⟨lower, upper⟩ := h.count hp
  obtain ⟨hlt, hs⟩ | ⟨-, hs⟩ := busyOrComplete_cases s
  · rw [hs]
    exact ⟨h.latency, fun _ => ⟨Nat.le_sub_one_of_lt hlt, (Nat.sub_le _ _).trans upper⟩, fun _ => h.valid hp⟩
  · rw [hs]
    exact inv_of_idle h.latency rfl

/-- Settles O52: of the five next states of `step_next_cases` reset, hold and completion are IDLE, an accept edge loads
CNT with LATENCY, a micro-operation writes none of the registers of the invariant, and the busy edge is
`inv_busyOrComplete`. -/
theorem countStaysInRange : Obligations.CountStaysInRange := by
  intro s t h next
  obtain ⟨-, rfl⟩ | ⟨-, -, -, rfl⟩ | ⟨-, hp, -, rfl⟩ | ⟨-, -, -, c, rfl⟩ | ⟨-, hp, -, rfl⟩ := step_next_cases next
  · exact inv_of_idle h.latency rfl
  · exact ⟨h.latency, fun _ => ⟨one_le_latencyOf h.latency _, le_rfl⟩, fun _ => rfl⟩
  · exact inv_of_idle h.latency hp
  · exact ⟨h.latency, h.count, h.valid⟩
  · obtain ⟨latency, count, valid⟩ := inv_busyOrComplete h hp
    exact ⟨latency, count, valid⟩

/-- Settles O53: the state after reset is IDLE, with a latency of 1. -/
theorem resetStateIsIdleAndReady : Obligations.ResetStateIsIdleAndReady :=
  ⟨inv_of_idle (by decide) rfl, rfl, rfl, rfl, rfl⟩

/-! ### OV and RES -/

/-- Settles O46: of the next states of `step_next_cases` reset and accept clear OV, hold, a micro-operation and a busy edge
before the last leave OV and RES, and the completion edge sets OV and writes RES. -/
theorem onlyCompletionSetsOutputValid : Obligations.OnlyCompletionSetsOutputValid := by
  intro s t next
  obtain ⟨hr, rfl⟩ | ⟨hr, hp, hv, rfl⟩ | ⟨hr, hp, hv, rfl⟩ | ⟨hr, hp, hu, c, rfl⟩ | ⟨hr, hp, hu, rfl⟩ :=
    step_next_cases next
  · simp [hr]
  · simp [hr, hp, hv]
  · simp +contextual [hr, hp, hv]
  · simp +contextual [hr, hp, hu.ne, State.withCipher]
  · obtain ⟨hc, hs⟩ | ⟨hc, hs⟩ := busyOrComplete_cases s
    · simp +contextual [hr, hp, hs, Nat.not_le.mpr hc]
    · simp [hr, hp, hu, hs, hc]

/-! ### LATENCY -/

/-- A command, accepted or ignored, leaves LATENCY (rules R4, R110, R113). -/
@[simp] theorem offer_latency (s : State) (m : Mode) (k0 k1 d : Block) : (s.offer m k0 k1 d).latency = s.latency := by
  cases h : s.inReady
  · rw [offer_of_not_ready s m k0 k1 d h]
  · rw [offer_of_ready s m k0 k1 d h, accept_latency]

/-- The busy and the completion step leave LATENCY (rules R4, R111). -/
@[simp] theorem busyOrComplete_latency (s : State) : s.busyOrComplete.latency = s.latency := by
  obtain ⟨-, h⟩ | ⟨-, h⟩ := busyOrComplete_cases s
  · rw [h]
  · rw [h, complete_latency]

/-- No meaning of an instruction writes LATENCY (rule R4). -/
theorem exec_latency {i : Instr} {s t : State} (h : exec i s = .next t) : t.latency = s.latency := by
  obtain ⟨m, k0, k1, d, rfl⟩ | ⟨v, rfl⟩ | ⟨-, rfl⟩ := exec_next_cases h
  · exact offer_latency s m k0 k1 d
  · exact setSt_latency s v
  · exact flipKeys_latency s

/-- No step writes LATENCY, a reset edge among them (rules R4, R140). -/
theorem step_latency {s t : State} (h : step s = .next t) : t.latency = s.latency := by
  obtain ⟨-, rfl⟩ | ⟨-, -, -, rfl⟩ | ⟨-, -, -, rfl⟩ | ⟨-, -, -, c, rfl⟩ | ⟨-, -, -, rfl⟩ := step_next_cases h
  · rfl
  · rfl
  · rfl
  · rfl
  · exact busyOrComplete_latency s

/-- Settles O48: the step through `step_latency`, the meanings through `exec_latency`. -/
theorem latencyNeverChanges : Obligations.LatencyNeverChanges :=
  ⟨fun _ _ => step_latency, fun _ _ _ => exec_latency⟩

/-! ### The step and the meaning it runs -/

/-- A word stands before the end of the sequence alone, and the micro-operation there is the one it decodes to
(rule R105). -/
theorem romInstr_of_fetch {upc : Fin 60} {w : UopWord} {i : Instr} (hf : fetchUop upc = some w)
    (hd : decodeUop w = .ok i) : upc.val < 59 ∧ romInstr upc = i := by
  refine ⟨?_, by rw [romInstr, hf]; simp only [hd]⟩
  by_contra past
  have none := fetch_end upc (by omega)
  rw [hf] at none
  cases none

/-- The busy and the completion step leave UPC (rule R111). -/
@[simp] theorem busyOrComplete_upc (s : State) : s.busyOrComplete.upc = s.upc := by
  obtain ⟨-, h⟩ | ⟨-, h⟩ := busyOrComplete_cases s
  · rw [h]
  · rw [h, complete_upc]

/-- The busy and the completion step leave ST (rule R111). -/
@[simp] theorem busyOrComplete_st (s : State) : s.busyOrComplete.st = s.st := by
  obtain ⟨-, h⟩ | ⟨-, h⟩ := busyOrComplete_cases s
  · rw [h]
  · rw [h, complete_st]

/-- Settles O50: the step is the micro-operation and the move of UPC (`step_uop`), the sequence decodes up to its end
(`rom_decodes`), and at the end the step is the busy edge (`step_busy`). -/
theorem stepRunsTheMicroOperation : Obligations.StepRunsTheMicroOperation := by
  refine ⟨fun s hp hr w i hf hd => ?runs, fun s hp hr hu => ?decodes, fun s hp hr hu => ?busyEdge⟩
  case runs =>
    obtain ⟨hu, rfl⟩ := romInstr_of_fetch hf hd
    obtain ⟨t, next, same, -⟩ := exec_legal (romFrom_of_lt hu).1 s
    have upc : t.upc = s.upc := by rw [same]
    exact ⟨t, next, upc, t.nextUop, by rw [step_uop s hr hp hu, next, andThen_next],
      by rw [nextUop_upc_val t (upc ▸ hu), upc], rfl⟩
  case decodes =>
    obtain ⟨w, hf, hd, -⟩ := rom_decodes s.upc hu
    exact ⟨w, _, hf, hd⟩
  case busyEdge =>
    exact ⟨_, step_busy s hr hp hu, busyOrComplete_upc s, busyOrComplete_st s, by simp⟩

/-- In a ready CORE the command on given ports loads its mode, keys and block (rules R43, R110). -/
theorem exec_decodeCmd_of_ready {s : State} (ready : s.inReady = true) (i : Inputs) :
    exec (decodeCmd i.cmd) s = .next (s.accept (modeOf i.inMode) (keyHalf0 i.inKey) (keyHalf1 i.inKey) i.inData) := by
  rw [decodeCmd_ports, ← offer_of_ready s _ _ _ _ ready]
  cases i.inMode with
  | false => rfl
  | true => rfl

/-- Settles O51: the meaning is the accept effect (`exec_decodeCmd_of_ready`), which leaves the ports and the edge count
to the step (`step_accept`). -/
theorem stepRunsThePresentedCommand : Obligations.StepRunsThePresentedCommand := by
  intro s t i hp hr hv hd next
  obtain rfl : decodeCmd s.ports.cmd = i := Except.ok.inj hd
  rw [exec_decodeCmd_of_ready ((inReady_iff s).mpr ⟨hp, hr⟩)] at next
  obtain rfl := Host.Outcome.next.inj next
  exact step_accept hp hr hv

end Sys2Proof.Machine
end

section
/-! PROOF. The machine and the spec's combined step function side by side: each kind of edge keeps `Simulates`
(rules R110 to R113, R140), the completion edge because the micro-sequence computes Core (rules R104, R111). -/

namespace Sys2Proof.Machine

/-! ### The busy edge, whole -/

@[simp] theorem finishUops_mode (s : State) : s.finishUops.mode = s.mode := by rw [finishUops_eq]
@[simp] theorem finishUops_tables (s : State) : s.finishUops.tables = s.tables := by rw [finishUops_eq]
@[simp] theorem finishUops_latency (s : State) : s.finishUops.latency = s.latency := by rw [finishUops_eq]
@[simp] theorem finishUops_edges (s : State) : s.finishUops.edges = s.edges := by rw [finishUops_eq]

/-- A busy edge before the last runs what is left of the micro-sequence and counts down (rule R111). -/
theorem busyEdge_eq_of_lt {s : State} (h : 1 < s.cnt) :
    s.busyEdge = { s.finishUops with cnt := s.cnt - 1 }.counted := by
  obtain ⟨-, hs⟩ | ⟨hle, -⟩ := busyOrComplete_cases s.finishUops
  · rw [State.busyEdge, hs, finishUops_cnt]
  · rw [finishUops_cnt] at hle; omega

/-- The last busy edge runs what is left of the micro-sequence and completes (rule R111). -/
theorem busyEdge_eq_of_le {s : State} (h : s.cnt ≤ 1) : s.busyEdge = s.finishUops.complete.counted := by
  obtain ⟨hlt, -⟩ | ⟨-, hs⟩ := busyOrComplete_cases s.finishUops
  · rw [finishUops_cnt] at hlt; omega
  · rw [State.busyEdge, hs]

/-! ### The spec's edge by its conditions -/

/-- The spec's reset edge (rule R140). -/
theorem specCycle_reset {i : Inputs} (hr : i.rst = true) (s : State) : specCycle i s = s.resetRegs.counted := by
  rw [specCycle, specEdge, if_pos hr]
  rfl

/-- The spec's accept edge (rule R110). -/
theorem specCycle_accept {i : Inputs} {s : State} (hp : s.phase = .idle) (hr : i.rst = false) (hv : i.inValid = true) :
    specCycle i s = (s.accept (modeOf i.inMode) (keyHalf0 i.inKey) (keyHalf1 i.inKey) i.inData).counted := by
  simp [specCycle, specEdge, hr, hp, hv, State.counted]

/-- The spec's hold edge (rule R112). -/
theorem specCycle_hold {i : Inputs} {s : State} (hp : s.phase = .idle) (hr : i.rst = false) (hv : i.inValid = false) :
    specCycle i s = s.counted := by
  simp [specCycle, specEdge, hr, hp, hv, State.counted]

/-- The spec's busy edge before the last (rule R111). -/
theorem specCycle_busy {i : Inputs} {s : State} (hp : s.phase = .busy) (hr : i.rst = false) (hc : 1 < s.cnt) :
    specCycle i s = { s with cnt := s.cnt - 1 }.counted := by
  simp [specCycle, specEdge, hr, hp, hc, State.counted]

/-- The spec's completion edge: Core of the accepted values comes out (rule R111). -/
theorem specCycle_complete {i : Inputs} {s : State} (hp : s.phase = .busy) (hr : i.rst = false) (hc : s.cnt ≤ 1) :
    specCycle i s =
      { s with res := princeCore s.tables s.k0r s.k1r s.st s.mode, ov := true, phase := .idle }.counted := by
  simp [specCycle, specEdge, hr, hp, Nat.not_lt.mpr hc, State.counted]

/-! ### Each edge keeps the simulation -/

section
variable {spec impl : State} (h : Simulates spec impl)
include h

/-- Reset edges keep the simulation: both sides draw by the same edge count (rule R140). -/
theorem simulates_reset : Simulates spec.resetRegs.counted impl.resetRegs.counted where
  phase := rfl
  ov := rfl
  res := congrArg Config.freeRes h.edges
  tables := h.tables
  latency := h.latency
  edges := congrArg Nat.succ h.edges
  busy := Phase.noConfusion

/-- Accept edges keep the simulation: both sides hold the accepted values, with nothing of the micro-sequence run
(rule R110). -/
theorem simulates_accept (m : Mode) (k0 k1 d : Block) :
    Simulates (spec.accept m k0 k1 d).counted (impl.accept m k0 k1 d).counted where
  phase := rfl
  ov := rfl
  res := h.res
  tables := h.tables
  latency := h.latency
  edges := congrArg Nat.succ h.edges
  busy _ := ⟨congrArg (latencyOf · m) h.latency, rfl,
    .inl ⟨rfl, rfl, congrArg (fun t => (loadedKeys t m k0 k1).1) h.tables,
      congrArg (fun t => (loadedKeys t m k0 k1).2) h.tables⟩⟩

/-- Hold edges keep the simulation (rule R112). -/
theorem simulates_hold : Simulates spec.counted impl.counted where
  phase := h.phase
  ov := h.ov
  res := h.res
  tables := h.tables
  latency := h.latency
  edges := congrArg Nat.succ h.edges
  busy := h.busy

/-- While BUSY the rest of the micro-sequence, be it all of it or nothing, leaves Core of the spec's accepted values in
ST (rules R104, R111). -/
theorem finishUops_st_of_simulates (hp : spec.phase = .busy) :
    impl.finishUops.st = princeCore spec.tables spec.k0r spec.k1r spec.st spec.mode := by
  obtain ⟨-, mode, ⟨upc, st, k0r, k1r⟩ | ⟨upc, st⟩⟩ := h.busy hp
  · rw [finishUops_st_of_start (congrArg Fin.val upc), h.tables, mode, st, k0r, k1r]
  · rw [finishUops_of_end (Fin.ext upc), st]

/-- Busy edges before the last keep the simulation: the machine has run all of the micro-sequence (rule R111). -/
theorem simulates_busy (hp : spec.phase = .busy) (hc : 1 < spec.cnt) :
    Simulates { spec with cnt := spec.cnt - 1 }.counted impl.busyEdge := by
  obtain ⟨cnt, mode, -⟩ := h.busy hp
  have core := finishUops_st_of_simulates h hp
  rw [busyEdge_eq_of_lt (cnt ▸ hc)]
  exact {
    phase := (finishUops_phase impl).trans h.phase
    ov := (finishUops_ov impl).trans h.ov
    res := (finishUops_res impl).trans h.res
    tables := (finishUops_tables impl).trans h.tables
    latency := (finishUops_latency impl).trans h.latency
    edges := congrArg Nat.succ ((finishUops_edges impl).trans h.edges)
    busy := fun _ => ⟨congrArg (· - 1) cnt, (finishUops_mode impl).trans mode,
      .inr ⟨congrArg Fin.val (finishUops_upc impl), core⟩⟩ }

/-- Completion edges keep the simulation: both sides write Core of the accepted values to RES (rule R111). -/
theorem simulates_complete (hp : spec.phase = .busy) (hc : spec.cnt ≤ 1) :
    Simulates
      { spec with res := princeCore spec.tables spec.k0r spec.k1r spec.st spec.mode, ov := true, phase := .idle }.counted
      impl.busyEdge := by
  obtain ⟨cnt, -, -⟩ := h.busy hp
  rw [busyEdge_eq_of_le (cnt ▸ hc)]
  exact {
    phase := rfl
    ov := rfl
    res := finishUops_st_of_simulates h hp
    tables := (finishUops_tables impl).trans h.tables
    latency := (finishUops_latency impl).trans h.latency
    edges := congrArg Nat.succ ((finishUops_edges impl).trans h.edges)
    busy := Phase.noConfusion }

/-- A cycle of the machine simulates the spec's edge with the same ports, whichever it is (rule R123). -/
theorem simulates_cycle (i : Inputs) : ∃ impl', cycle i impl = .next impl' ∧ Simulates (specCycle i spec) impl' := by
  cases hr : i.rst with
  | true => exact ⟨_, cycle_reset hr impl, specCycle_reset hr spec ▸ simulates_reset h⟩
  | false =>
    cases hp : spec.phase with
    | idle =>
      cases hv : i.inValid with
      | true =>
        exact ⟨_, cycle_accept (h.phase.trans hp) hr hv, specCycle_accept hp hr hv ▸ simulates_accept h _ _ _ _⟩
      | false => exact ⟨_, cycle_hold (h.phase.trans hp) hr hv, specCycle_hold hp hr hv ▸ simulates_hold h⟩
    | busy =>
      refine ⟨_, cycle_busy (h.phase.trans hp) hr, ?_⟩
      obtain hc | hc := Nat.lt_or_ge 1 spec.cnt
      · exact specCycle_busy hp hr hc ▸ simulates_busy h hp hc
      · exact specCycle_complete hp hr hc ▸ simulates_complete h hp hc

end

/-- Settles O54: the step is `simulates_cycle`, the outputs depend on registers that agree (`outputs_congr`). -/
theorem refinesTheSpecStep : Obligations.RefinesTheSpecStep :=
  fun i _ _ h => ⟨simulates_cycle h i, fun rst => outputs_congr rst h.phase h.ov fun _ => h.res⟩

end Sys2Proof.Machine
end

section
/-! PROOF. What is hidden does not reach the outputs (rules R16, R21): each kind of step keeps `Indistinguishable`, and a
busy edge before the last leaves ST, K0R, K1R and UPC inside. -/

namespace Sys2Proof.Machine

section
variable {s u : State} (h : Indistinguishable s u)
include h

/-- Indistinguishable states have the same ports at the coming edge. -/
theorem ports_of_indistinguishable : s.ports = u.ports := by
  simp only [State.ports, h.inputs]

/-- Reset edges keep two states indistinguishable: the registers they draw are hidden (rule R140). -/
theorem indistinguishable_reset : Indistinguishable s.resetRegs.tick u.resetRegs.tick where
  phase := rfl
  ov := rfl
  res := Bool.noConfusion
  tables := h.tables
  latency := h.latency
  inputs := congrArg List.tail h.inputs
  busy := Phase.noConfusion

/-- Accept edges with one command make every register that runs it the same in both states (rule R110). -/
theorem indistinguishable_accept (m : Mode) (k0 k1 d : Block) :
    Indistinguishable (s.accept m k0 k1 d).tick (u.accept m k0 k1 d).tick where
  phase := rfl
  ov := rfl
  res := Bool.noConfusion
  tables := h.tables
  latency := h.latency
  inputs := congrArg List.tail h.inputs
  busy _ := ⟨rfl, congrArg (fun t => (loadedKeys t m k0 k1).1) h.tables,
    congrArg (fun t => (loadedKeys t m k0 k1).2) h.tables, rfl, rfl, congrArg (latencyOf · m) h.latency⟩

/-- The passing of an edge keeps two states indistinguishable (rule R112). -/
theorem indistinguishable_tick : Indistinguishable s.tick u.tick where
  phase := h.phase
  ov := h.ov
  res := h.res
  tables := h.tables
  latency := h.latency
  inputs := congrArg List.tail h.inputs
  busy := h.busy

/-- Before the end of the sequence one write of the cipher registers and the move of UPC keep two BUSY states
indistinguishable (rule R105). -/
theorem indistinguishable_uop (hp : s.phase = .busy) (hu : s.upc.val < 59) (c : Block × Block × Block) :
    Indistinguishable (s.withCipher c).nextUop (u.withCipher c).nextUop := by
  obtain ⟨-, -, -, mode, upc, cnt⟩ := h.busy hp
  have next : (s.withCipher c).nextUop.upc = (u.withCipher c).nextUop.upc := by
    apply Fin.ext
    rw [nextUop_upc_val (s.withCipher c) hu, nextUop_upc_val (u.withCipher c) (upc ▸ hu)]
    exact congrArg (·.val + 1) upc
  exact ⟨h.phase, h.ov, h.res, h.tables, h.latency, h.inputs, fun _ => ⟨rfl, rfl, rfl, mode, next, cnt⟩⟩

/-- While BUSY the busy or completion edge keeps two states indistinguishable: the result comes from ST, which they share
(rule R111). -/
theorem indistinguishable_busyOrComplete (hp : s.phase = .busy) :
    Indistinguishable s.busyOrComplete u.busyOrComplete := by
  obtain ⟨st, k0r, k1r, mode, upc, cnt⟩ := h.busy hp
  obtain ⟨hs, next⟩ | ⟨hs, next⟩ := busyOrComplete_cases s <;>
    obtain ⟨hu, next'⟩ | ⟨hu, next'⟩ := busyOrComplete_cases u
  · rw [next, next']
    exact ⟨h.phase, h.ov, h.res, h.tables, h.latency, h.inputs,
      fun _ => ⟨st, k0r, k1r, mode, upc, congrArg (· - 1) cnt⟩⟩
  · omega
  · omega
  · rw [next, next']
    exact ⟨rfl, rfl, fun _ => st, h.tables, h.latency, h.inputs, Phase.noConfusion⟩

/-- Every step from indistinguishable states leads to indistinguishable states: the ports, the phase and, while BUSY, UPC
and all that the micro-operation there reads are the same in both (rule R123). -/
theorem indistinguishable_step : ∃ s' u', step s = .next s' ∧ step u = .next u' ∧ Indistinguishable s' u' := by
  have ports := ports_of_indistinguishable h
  cases hr : s.ports.rst with
  | true => exact ⟨_, _, step_reset s hr, step_reset u (ports ▸ hr), indistinguishable_reset h⟩
  | false =>
    have hr' : u.ports.rst = false := ports ▸ hr
    cases hp : s.phase with
    | idle =>
      have hp' : u.phase = .idle := h.phase ▸ hp
      cases hv : s.ports.inValid with
      | true =>
        have command := step_accept hp' hr' (ports ▸ hv)
        rw [← ports] at command
        exact ⟨_, _, step_accept hp hr hv, command, indistinguishable_accept h _ _ _ _⟩
      | false => exact ⟨_, _, step_hold s hr hp hv, step_hold u hr' hp' (ports ▸ hv), indistinguishable_tick h⟩
    | busy =>
      have hp' : u.phase = .busy := h.phase ▸ hp
      obtain ⟨st, k0r, k1r, mode, upc, -⟩ := h.busy hp
      by_cases hu : s.upc.val < 59
      · obtain ⟨f, next⟩ := step_uop_reads s.upc hu
        have cipher : s.cipher = u.cipher := by rw [State.cipher, State.cipher, st, k0r, k1r]
        have next' := next u hr' hp' upc.symm
        rw [← h.tables, ← mode, ← cipher] at next'
        exact ⟨_, _, next s hr hp rfl, next', indistinguishable_uop h hp hu _⟩
      · have last : s.upc.val = 59 := by omega
        exact ⟨_, _, step_busy s hr hp last, step_busy u hr' hp' (upc ▸ last),
          indistinguishable_tick (indistinguishable_busyOrComplete h hp)⟩

end

/-- Two busy edges before the last from states that differ in ST, K0R, K1R and UPC lead to states that differ in no more
(rules R105, R111). -/
theorem busyEdge_of_hidden {s : State} (hc : 1 < s.cnt) (st k0r k1r : Block) (upc : Fin 60) :
    let u := { s with st := st, k0r := k0r, k1r := k1r, upc := upc }.busyEdge
    u = { s.busyEdge with st := u.st, k0r := u.k0r, k1r := u.k1r, upc := u.upc } := by
  intro u
  have edge : u = _ := busyEdge_eq_of_lt (s := { s with st := st, k0r := k0r, k1r := k1r, upc := upc }) hc
  rw [edge, busyEdge_eq_of_lt hc, finishUops_eq s, finishUops_eq]
  rfl

/-- Settles O55: the steps through `indistinguishable_step`; the outputs read PHASE, OV and RES alone (`outputs_congr`),
which a reset edge sets and a busy edge before the last leaves as they are (`busyEdge_of_hidden`). -/
theorem hiddenStateNeverShows : Obligations.HiddenStateNeverShows := by
  refine ⟨fun s u h => ⟨fun rst => outputs_congr rst h.phase h.ov h.res, indistinguishable_step h⟩,
    fun s st k0r k1r mode upc cnt rst => outputs_congr rst rfl rfl fun _ => rfl, ?_⟩
  intro s st k0r k1r upc i hp edge
  cases hr : i.rst with
  | true =>
    exact ⟨_, _, cycle_reset hr s, cycle_reset hr _, fun rst => outputs_congr rst rfl rfl Bool.noConfusion,
      Bool.noConfusion⟩
  | false =>
    have hc : 1 < s.cnt := edge.resolve_left (by rw [hr]; exact Bool.noConfusion)
    obtain ⟨phase, -, -, -, -⟩ := busyEdge_of_lt hc
    have differ := busyEdge_of_hidden hc st k0r k1r upc
    refine ⟨_, _, cycle_busy hp hr, cycle_busy (s := { s with st := st, k0r := k0r, k1r := k1r, upc := upc }) hp hr,
      fun rst => ?_, fun _ => ⟨phase.trans hp, differ⟩⟩
    rw [differ]
    exact outputs_congr rst rfl rfl fun _ => rfl

end Sys2Proof.Machine
end

section
/-! PROOF. What the spec derives of the layers: the M-layer bit by bit, its linearity and involution (rules R78, R79), the
layers that undo each other as runs (rules R72, R75), and what a micro-operation writes (rules R71 to R82, R106). -/

namespace Sys2Proof.Machine

/-! ### The M-layer -/

/-- Settles O16: a group of the M-layer is a block matrix (`nib_mLayer_group`), which works bit by bit (`getLsbD_mHat`);
pattern k clears bit b exactly where k = 3 - b. -/
theorem mLayerBitSums : Obligations.MLayerBitSums := by
  intro t x ht k i b
  have cleared : ∀ c : Nat, b.val ≠ 3 - c % 4 ↔ c % 4 ≠ 3 - b.val := fun c => by omega
  rw [nib_mLayer_group, getLsbD_mHat ht, mHatBit]
  simp only [cleared, groupShift]

/-- XOR of blocks is XOR of their nibbles (rules R6, R62). -/
theorem nib_xor (x y : Block) (i : Fin 16) : nib (x ^^^ y) i = nib x i ^^^ nib y i :=
  BitVec.extractLsb'_xor

/-- A block matrix is linear over XOR, whatever its patterns (rules R77, R79). -/
theorem mHat_xor (t : Tables) (shift : Nat) (g h : Fin 4 → Nibble) (i : Fin 4) :
    mHat t shift (fun j => g j ^^^ h j) i = mHat t shift g i ^^^ mHat t shift h i := by
  have term : ∀ j, mTerm t shift i j (g j ^^^ h j) = mTerm t shift i j (g j) ^^^ mTerm t shift i j (h j) :=
    fun j => by
      rw [mTerm, BitVec.and_comm, nibble_xor_and_distrib, BitVec.and_comm (g j), BitVec.and_comm (h j)]
      rfl
  simp only [mHat, term]
  ac_rfl

/-- The M-layer is linear over XOR (rule R79). -/
theorem mLayer_xor (t : Tables) (x y : Block) : mLayer t (x ^^^ y) = mLayer t x ^^^ mLayer t y :=
  block_ext_nib fun i => by
    rw [nib_xor, nib_mLayer, nib_mLayer, nib_mLayer, ← mHat_xor]
    simp only [nib_xor]

/-- Settles O17: linearity is `mLayer_xor`, the involution `mLayer_mLayer`. -/
theorem mLayerIsALinearInvolution : Obligations.MLayerIsALinearInvolution :=
  fun t ht => ⟨mLayer_xor t, mLayer_mLayer ht⟩

/-! ### Layers that undo each other, as runs -/

/-- A run of two micro-operations that write ST, the second undoing the first, changes nothing. -/
theorem runUops_undo {s : State} {i j : Instr} {f g : Block → Block} (first : exec i s = .next (s.setSt (f s.st)))
    (second : ∀ x, exec j (s.setSt x) = .next (s.setSt (g x))) (undo : g (f s.st) = s.st) :
    runUops [i, j] s = .next s := by
  rw [runUops_cons_of_next first, runUops_cons_of_next (second _), undo, setSt_st_self, runUops]

/-- Settles O18: each run undoes itself (`runUops_undo`), by the inverse laws of the layers as functions. -/
theorem layersInvertEachOther : Obligations.LayersInvertEachOther := by
  refine fun s => ⟨fun hbox => ⟨?_, ?_⟩, fun hshift => ⟨?_, ?_⟩⟩
  · exact runUops_undo (exec_sl s) (fun x => exec_sli (s.setSt x)) (sLayerInv_sLayer hbox s.st)
  · exact runUops_undo (exec_sli s) (fun x => exec_sl (s.setSt x)) (sLayer_sLayerInv hbox s.st)
  · exact runUops_undo (exec_sr s) (fun x => exec_sri (s.setSt x)) (shiftRowInv_shiftRow hshift s.st)
  · exact runUops_undo (exec_sri s) (fun x => exec_sr (s.setSt x)) (shiftRow_shiftRowInv hshift s.st)

/-! ### What a micro-operation writes -/

/-- An instruction with a UOP word writes ST alone, or it is KFLIP (rules R71 to R82). -/
theorem exec_uop_cases {i : Instr} {w : UopWord} {s t : State} (hw : encode i = .uop w) (h : exec i s = .next t) :
    (∃ v, s.setSt v = t) ∨ (i = .kflip ∧ s.flipKeys = t) := by
  cases i with
  | enc k0 k1 d => cases hw
  | dec k0 k1 d => cases hw
  | xrc i =>
    obtain ⟨v, -, ht⟩ := (execXrc_eq_next i s t).mp h
    exact .inl ⟨s.st ^^^ v, ht⟩
  | xk sel =>
    obtain ⟨v, -, ht⟩ := (execXk_eq_next sel s t).mp h
    exact .inl ⟨s.st ^^^ v, ht⟩
  | kflip => exact .inr ⟨rfl, Host.Outcome.next.inj h⟩
  | _ => exact .inl ⟨_, Host.Outcome.next.inj h⟩

/-- Settles O24: the two cases of `exec_uop_cases`; in encryption mode KFLIP changes nothing (`flipKeys_of_forward`). -/
theorem uopsWriteOnlyCipherRegisters : Obligations.UopsWriteOnlyCipherRegisters := by
  intro i w s t hw next
  obtain ⟨v, rfl⟩ | ⟨rfl, rfl⟩ := exec_uop_cases hw next
  · exact ⟨rfl, fun changed => by simp at changed⟩
  · refine ⟨rfl, fun changed => ⟨rfl, ?_⟩⟩
    cases mode : s.mode with
    | forward => rw [flipKeys_of_forward mode] at changed; simp at changed
    | backward => rfl

/-- Settles O22: the M-layer reads no key and the flip does not read ST, so the two commute (`flipKeys_setSt`). -/
theorem kflipCommutesWithMl : Obligations.KflipCommutesWithMl := by
  intro s
  calc runUops [.ml, .kflip] s
    _ = .next (s.setSt (mLayer s.tables s.st)).flipKeys := rfl
    _ = .next (s.flipKeys.setSt (mLayer s.tables s.st)) := by rw [flipKeys_setSt]
    _ = runUops [.kflip, .ml] s := rfl

/-! ### The decryption-key transform twice -/

/-- The decryption-key transform applied twice XORs both constants into both halves (rule R65). -/
theorem decKey_decKey (t : Tables) (k0 k1 : Block) :
    decKey t (decKey t k0 k1).1 (decKey t k0 k1).2 = (k0 ^^^ t.alpha ^^^ t.beta, k1 ^^^ t.alpha ^^^ t.beta) := by
  rw [decKey, decKey, BitVec.xor_assoc k1, BitVec.xor_comm t.beta, ← BitVec.xor_assoc]

/-- XORing two constants into a block leaves it exactly if they are equal. -/
theorem xor_xor_eq_self_iff (k a b : Block) : k ^^^ a ^^^ b = k ↔ a = b :=
  calc k ^^^ a ^^^ b = k
    _ ↔ k ^^^ (a ^^^ b) = k ^^^ 0#64 := by rw [BitVec.xor_assoc, BitVec.xor_zero]
    _ ↔ a ^^^ b = 0#64 := BitVec.xor_right_inj k
    _ ↔ a = b := BitVec.xor_eq_zero_iff

/-- Settles O10: the result is `decKey_decKey`, and it is the key itself exactly for equal constants
(`xor_xor_eq_self_iff`). -/
theorem decryptionKeyTwice : Obligations.DecryptionKeyTwice := by
  refine ⟨decKey_decKey, fun t k0 k1 => ?_, by decide⟩
  rw [decKey_decKey, Prod.mk.injEq, xor_xor_eq_self_iff, xor_xor_eq_self_iff, and_self]

end Sys2Proof.Machine
end

section
/-! PROOF. The rounds, the middle and Core as steps of the sequencer (rules R90, R91, R97, R104): steps while BUSY run the
micro-operations of the sequence from UPC on, and those of each part are its expansion. -/

namespace Sys2Proof.Machine

/-! ### Steps as runs of the sequence -/

/-- A BUSY step before the end of the sequence runs the micro-operation at UPC and moves UPC on (rule R105). -/
theorem step_uop_placed {s t : State} {upc : Fin 60} {inputs : List Inputs} (hp : s.phase = .busy)
    (hr : (s.placed upc inputs).ports.rst = false) (hu : upc.val < 59) (next : exec (romInstr upc) s = .next t) :
    step (s.placed upc inputs) = .next (t.placed ⟨upc.val + 1, by omega⟩ inputs) := by
  obtain ⟨u, first, -, placed⟩ := exec_legal (romFrom_of_lt hu).1 s
  obtain rfl : t = u := Host.Outcome.next.inj (next.symm.trans first)
  rw [← nextUop_placed t hu, ← andThen_next, ← placed]
  exact step_uop (s.placed upc inputs) hr hp hu

/-- While BUSY without reset, as many steps as micro-operations are left run them in order and move UPC on by as many
(rules R104, R105). -/
theorem stepN_placed {s t : State} {upc : Fin 60} {inputs : List Inputs} {n : Nat} (hp : s.phase = .busy)
    (hr : (s.placed upc inputs).ports.rst = false) (hn : upc.val + n ≤ 59)
    (run : runUops ((romFrom upc).take n) s = .next t) :
    stepN n (s.placed upc inputs) = .next (t.placed ⟨upc.val + n, by omega⟩ inputs) := by
  induction n generalizing s upc with
  | zero =>
    obtain rfl : s = t := Host.Outcome.next.inj run
    rfl
  | succ n ih =>
    have hu : upc.val < 59 := by omega
    obtain ⟨legal, rom⟩ := romFrom_of_lt hu
    obtain ⟨u, next, same, -⟩ := exec_legal legal s
    have hup : u.phase = .busy := by rw [same, hp]
    rw [rom, List.take_succ_cons, runUops_cons_of_next next] at run
    rw [stepN, step_uop_placed hp hr hu next]
    have rest := ih (upc := ⟨upc.val + 1, by omega⟩) hup hr (by simp only; omega) run
    simp only [Nat.add_assoc, Nat.add_comm 1 n] at rest
    exact rest

/-- A run of the next micro-operations of the sequence, as steps from the state itself (rules R104, R105). -/
theorem stepN_of_run {s t : State} {n : Nat} (hp : s.phase = .busy) (hr : s.ports.rst = false) (hn : s.upc.val + n ≤ 59)
    (run : runUops ((romFrom s.upc).take n) s = .next t) :
    stepN n s = .next (t.placed ⟨s.upc.val + n, by omega⟩ s.inputs) :=
  stepN_placed (upc := s.upc) (inputs := s.inputs) hp hr hn run

/-! ### The parts of the sequence by their place -/

/-- From UPC = 5i + 2 the sequence holds the expansion of forward round i + 1 (rule R104). -/
theorem romFrom_forward : ∀ {upc : Fin 60} {i : Fin 5}, upc.val = 5 * i.val + 2 →
    (romFrom upc).take 5 = forwardUops ⟨i.val + 1, by omega⟩ := by
  decide

/-- From UPC = 5i + 33 the sequence holds the expansion of inverse round i + 6 (rule R104). -/
theorem romFrom_backward : ∀ {upc : Fin 60} {i : Fin 5}, upc.val = 5 * i.val + 33 →
    (romFrom upc).take 5 = backwardUops ⟨i.val + 6, by omega⟩ := by
  decide

/-- From UPC = 27 the sequence holds the expansion of the middle (rule R104). -/
theorem romFrom_middle {upc : Fin 60} (hu : upc.val = 27) :
    (romFrom upc).take 6 = [.sl, .xk 0#2, .ml, .kflip, .xk 2#2, .sli] := by
  obtain rfl : upc = 27 := Fin.ext hu
  decide

/-- From UPC = 0 the sequence is whole (rule R104). -/
theorem romFrom_start {upc : Fin 60} (hu : upc.val = 0) : (romFrom upc).take 59 = instrsOf microRom := by
  obtain rfl : upc = 0 := Fin.ext hu
  decide

/-! ### The rounds, the middle and Core as steps -/

/-- Settles O26: the five steps are the run of the expansion (`stepN_of_run`, `romFrom_forward`), which computes the round
(`runUops_fwdRound`). -/
theorem forwardRoundByItsUops : Obligations.ForwardRoundByItsUops := by
  obtain ⟨functions, -⟩ := roundsByTheirExpansions
  refine ⟨fun t x k rc => ⟨rfl, ?swapped⟩, fun s i hp hr hu => ?steps, by decide +kernel⟩
  case swapped =>
    obtain ⟨-, swapped, -⟩ := functions t x k rc
    exact swapped
  case steps =>
    have run := runUops_fwdRound s ⟨i.val + 1, by omega⟩
    rw [← forwardUops, ← romFrom_forward hu] at run
    exact ⟨_, stepN_of_run hp hr (by omega) run, congrArg (· + 5) hu, rfl⟩

/-- Settles O27: as O26, by `romFrom_backward` and `runUops_invRound`. -/
theorem inverseRoundByItsUops : Obligations.InverseRoundByItsUops := by
  refine ⟨fun t x k rc => rfl, fun s i hp hr hu => ?_, by decide +kernel⟩
  have run := runUops_invRound s ⟨i.val + 6, by omega⟩
  rw [← backwardUops, ← romFrom_backward hu] at run
  exact ⟨_, stepN_of_run hp hr (by omega) run, congrArg (· + 5) hu, rfl⟩

/-- Settles O28: the six steps are the run of the expansion (`stepN_of_run`, `romFrom_middle`), which computes the middle
(`runUops_mid`); the broken round trip is `kflip_breaks_roundTrip`. -/
theorem middleByItsUops : Obligations.MiddleByItsUops := by
  refine ⟨fun s hp hr hu => ?_, kflip_breaks_roundTrip, by decide +kernel⟩
  have run := runUops_mid s
  rw [← romFrom_middle hu] at run
  refine ⟨_, stepN_of_run hp hr (by omega) run, congrArg (· + 6) hu, rfl, fun hm => ⟨?_, ?_⟩, fun hm => ⟨?_, ?_⟩, rfl,
    rfl⟩
  · exact (flipHalf_eq_ite s.tables s.mode s.k0r).trans (if_pos hm)
  · exact (flipHalf_eq_ite s.tables s.mode s.k1r).trans (if_pos hm)
  · exact congrArg (flipHalf s.tables · s.k0r) hm
  · exact congrArg (flipHalf s.tables · s.k1r) hm

/-- Settles O32: the 59 steps are the run of the whole sequence (`stepN_of_run`, `romFrom_start`), which computes Core
(`runUops_microRom`). -/
theorem microSequenceComputesCore : Obligations.MicroSequenceComputesCore := by
  intro s hp hr hu
  have run := runUops_microRom s
  rw [← romFrom_start hu] at run
  exact ⟨_, stepN_of_run hp hr (by omega) run, congrArg (· + 59) hu, rfl, rfl⟩

end Sys2Proof.Machine
end

section
/-! PROOF. The round trip (rules R90 to R103). A round is undone by a round with the same key ⊕ constant; by the pairing of
the constants (rule R95) the rounds of Decrypt are those of Encrypt, undone in reverse order. -/

namespace Sys2Proof.Machine

/-! ### Rounds that undo each other -/

/-- XORing two blocks undoes XORing two blocks with the same XOR. -/
theorem xor_xor_cancel {a b c d : Block} (h : a ^^^ b = c ^^^ d) (x : Block) : x ^^^ a ^^^ b ^^^ c ^^^ d = x :=
  calc x ^^^ a ^^^ b ^^^ c ^^^ d
    _ = x ^^^ ((a ^^^ b) ^^^ (c ^^^ d)) := by simp only [BitVec.xor_assoc]
    _ = x := by rw [h, BitVec.xor_self, BitVec.xor_zero]

/-- An inverse round undoes a forward round with the same key ⊕ constant (rules R90, R91). -/
theorem invRound_fwdRound {t : Tables} (ht : t.Lawful) {k rc k' rc' : Block} (h : k ^^^ rc = rc' ^^^ k') (x : Block) :
    invRound t (fwdRound t x k rc) k' rc' = x := by
  obtain ⟨hbox, hshift, -, -, hpat⟩ := ht
  rw [BitVec.xor_comm k, BitVec.xor_comm rc'] at h
  rw [invRound, fwdRound, xor_xor_cancel h, shiftRowInv_shiftRow hshift, mLayer_mLayer hpat, sLayerInv_sLayer hbox]

/-- A forward round undoes an inverse round with the same key ⊕ constant (rules R90, R91). -/
theorem fwdRound_invRound {t : Tables} (ht : t.Lawful) {k rc k' rc' : Block} (h : k ^^^ rc = rc' ^^^ k') (x : Block) :
    fwdRound t (invRound t x k rc) k' rc' = x := by
  obtain ⟨hbox, hshift, -, -, hpat⟩ := ht
  rw [invRound, fwdRound, sLayer_sLayerInv hbox, mLayer_mLayer hpat, shiftRow_shiftRowInv hshift, xor_xor_cancel h]

/-- Settles O31: the key ⊕ constant is the same in both rounds (`invRound_fwdRound`, `fwdRound_invRound`). -/
theorem roundsInvertEachOther : Obligations.RoundsInvertEachOther :=
  fun _ x k rc ht => ⟨invRound_fwdRound ht (BitVec.xor_comm k rc) x, fwdRound_invRound ht (BitVec.xor_comm k rc) x⟩

/-! ### Rounds in a row -/

/-- Round 11 - i for round i, as the negative of i modulo 11: the rounds whose constants rule R95 pairs. -/
def mirror (i : Fin 11) : Fin 11 := -i

/-- Rounds in a row are undone, mirrored and in reverse order, by rounds that undo each of them. -/
theorem foldl_mirror_undo {f g : Block → Fin 11 → Block} {rounds : List (Fin 11)}
    (h : ∀ i ∈ rounds, ∀ x, g (f x i) (mirror i) = x) (x : Block) :
    (rounds.map mirror).reverse.foldl g (rounds.foldl f x) = x := by
  induction rounds generalizing x with
  | nil => rfl
  | cons i rounds ih =>
    obtain ⟨first, rest⟩ := List.forall_mem_cons.mp h
    rw [List.map_cons, List.reverse_cons, List.foldl_append]
    exact (congrArg (g · (mirror i)) (ih rest (f x i))).trans (first x)

/-- Inverse rounds undo forward rounds where every pair has the same key ⊕ constant (rules R92, R95). -/
theorem backwardRounds_forwardRounds {t : Tables} (ht : t.Lawful) {k0 k1 j0 j1 : Block} {rounds : List (Fin 11)}
    (h : ∀ i ∈ rounds, roundKey i.val k0 k1 ^^^ t.rc.get i =
      t.rc.get (mirror i) ^^^ roundKey (mirror i).val j0 j1) (x : Block) :
    backwardRounds t j0 j1 (rounds.map mirror).reverse (forwardRounds t k0 k1 rounds x) = x :=
  foldl_mirror_undo (fun i hi => invRound_fwdRound ht (h i hi)) x

/-- Forward rounds undo inverse rounds where every pair has the same key ⊕ constant (rules R92, R95). -/
theorem forwardRounds_backwardRounds {t : Tables} (ht : t.Lawful) {k0 k1 j0 j1 : Block} {rounds : List (Fin 11)}
    (h : ∀ i ∈ rounds, roundKey i.val j0 j1 ^^^ t.rc.get i =
      t.rc.get (mirror i) ^^^ roundKey (mirror i).val k0 k1) (x : Block) :
    forwardRounds t k0 k1 (rounds.map mirror).reverse (backwardRounds t j0 j1 rounds x) = x :=
  foldl_mirror_undo (fun i hi => fwdRound_invRound ht (h i hi)) x

/-! ### The keys of Decrypt against those of Encrypt -/

/-- What the constants of rounds i and 11 - i differ by (rule R95). -/
def pairConstant (t : Tables) (i : Fin 11) : Block := if i.val ∈ [1, 3, 5, 6, 8, 10] then t.alpha else t.beta

/-- The constant pairing of rule R95, for round i and its mirror. -/
theorem rc_xor_rc_mirror {t : Tables} (ht : t.Lawful) {i : Fin 11} (hi : i ≠ 0) :
    t.rc.get i ^^^ t.rc.get (mirror i) = pairConstant t i := by
  obtain ⟨-, -, -, paired, -⟩ := ht
  obtain ⟨j, rfl⟩ := Fin.exists_succ_eq.mpr hi
  have opposite : ∀ j : Fin 10, mirror j.succ = ⟨10 - j.val, by omega⟩ := by decide
  rw [opposite]
  exact paired j

/-- Where two keys differ by what the constants of their rounds differ by, key ⊕ constant is the same (rule R95). -/
theorem key_xor_rc {t : Tables} (ht : t.Lawful) {i : Fin 11} (hi : i ≠ 0) {k k' : Block}
    (h : k' = k ^^^ pairConstant t i) : k ^^^ t.rc.get i = t.rc.get (mirror i) ^^^ k' :=
  calc k ^^^ t.rc.get i
    _ = (t.rc.get (mirror i) ^^^ t.rc.get (mirror i)) ^^^ (k ^^^ t.rc.get i) := by
      rw [BitVec.xor_self, BitVec.zero_xor]
    _ = t.rc.get (mirror i) ^^^ (k ^^^ (t.rc.get i ^^^ t.rc.get (mirror i))) := by ac_rfl
    _ = t.rc.get (mirror i) ^^^ k' := by rw [rc_xor_rc_mirror ht hi, h]

/-- Before the middle Decrypt has the keys (k1 ⊕ BETA, k0 ⊕ ALPHA), and its forward rounds undo the inverse rounds of
Encrypt (rules R65, R92, R95). -/
theorem decryptForward_encryptBackward {t : Tables} (ht : t.Lawful) (k0 k1 x : Block) :
    forwardRounds t (k1 ^^^ t.beta) (k0 ^^^ t.alpha) [1, 2, 3, 4, 5] (backwardRounds t k0 k1 [6, 7, 8, 9, 10] x) = x := by
  refine forwardRounds_backwardRounds (rounds := [6, 7, 8, 9, 10]) ht (fun i hi => ?_) x
  fin_cases hi
  all_goals exact key_xor_rc ht (by decide) rfl

/-- After the middle Decrypt has the keys (k1 ⊕ ALPHA, k0 ⊕ BETA), and its inverse rounds undo the forward rounds of
Encrypt (rules R82, R92, R95). -/
theorem decryptBackward_encryptForward {t : Tables} (ht : t.Lawful) (k0 k1 x : Block) :
    backwardRounds t (k1 ^^^ t.alpha) (k0 ^^^ t.beta) [6, 7, 8, 9, 10] (forwardRounds t k0 k1 [1, 2, 3, 4, 5] x) = x := by
  refine backwardRounds_forwardRounds (rounds := [1, 2, 3, 4, 5]) ht (fun i hi => ?_) x
  fin_cases hi
  all_goals exact key_xor_rc ht (by decide) rfl

/-- The flip takes the first key half of Decrypt from k1 ⊕ BETA to k1 ⊕ ALPHA (rules R65, R82). -/
theorem flipHalf_xor_beta (t : Tables) (k : Block) : flipHalf t .backward (k ^^^ t.beta) = k ^^^ t.alpha :=
  calc k ^^^ t.beta ^^^ (t.alpha ^^^ t.beta)
    _ = k ^^^ t.alpha ^^^ (t.beta ^^^ t.beta) := by ac_rfl
    _ = k ^^^ t.alpha := by rw [BitVec.xor_self, BitVec.xor_zero]

/-- The flip takes the second key half of Decrypt from k0 ⊕ ALPHA to k0 ⊕ BETA (rules R65, R82). -/
theorem flipHalf_xor_alpha (t : Tables) (k : Block) : flipHalf t .backward (k ^^^ t.alpha) = k ^^^ t.beta :=
  calc k ^^^ t.alpha ^^^ (t.alpha ^^^ t.beta)
    _ = k ^^^ t.beta ^^^ (t.alpha ^^^ t.alpha) := by ac_rfl
    _ = k ^^^ t.beta := by rw [BitVec.xor_self, BitVec.xor_zero]

/-! ### Decrypt and Encrypt -/

/-- XORing a block twice changes nothing. -/
theorem xor_xor_self (x k : Block) : x ^^^ k ^^^ k = x := by
  rw [BitVec.xor_assoc, BitVec.xor_self, BitVec.xor_zero]

/-- The middle of Decrypt undoes the middle of Encrypt: its two whitening values are those of Encrypt in reverse order
(rule R97). -/
theorem mid_mid {t : Tables} (ht : t.Lawful) (k0 k1 x : Block) :
    mid t (mid t x k0 k1 .forward).1 (k1 ^^^ t.beta) (k0 ^^^ t.alpha) .backward =
      (x, k1 ^^^ t.alpha, k0 ^^^ t.beta) := by
  obtain ⟨hbox, -, -, -, hpat⟩ := ht
  have state : sLayerInv t (mLayer t (sLayer t (mid t x k0 k1 .forward).1 ^^^ (k1 ^^^ t.beta)) ^^^
      (k0 ^^^ t.beta ^^^ t.beta)) = x := by
    simp only [mid, flipHalf]
    rw [sLayer_sLayerInv hbox, xor_xor_self, mLayer_mLayer hpat, xor_xor_self k0, xor_xor_self, sLayerInv_sLayer hbox]
  rw [mid, flipHalf_xor_beta, flipHalf_xor_alpha, state]

/-- Decrypt undoes Encrypt: each part of its pipeline undoes the mirrored part of the other (rules R100 to R103). -/
theorem decrypt_encrypt {t : Tables} (ht : t.Lawful) (k0 k1 p : Block) : decrypt t k0 k1 (encrypt t k0 k1 p) = p := by
  have rc0 : t.rc.get 0 = 0#64 := by obtain ⟨-, -, rc0, -, -⟩ := ht; exact rc0
  have cipher : encrypt t k0 k1 p ^^^ (k1 ^^^ t.beta) =
      backwardRounds t k0 k1 [6, 7, 8, 9, 10]
        (mid t (forwardRounds t k0 k1 [1, 2, 3, 4, 5] (p ^^^ k0 ^^^ t.rc.get 0)) k0 k1 .forward).1 :=
    xor_xor_self _ _
  rw [decrypt, decKey, princeCore]
  simp only
  rw [rc0, BitVec.xor_zero, cipher, decryptForward_encryptBackward ht, mid_mid ht]
  simp only
  rw [decryptBackward_encryptForward ht, rc0, BitVec.xor_zero, xor_xor_self k0, xor_xor_self]

/-- Settles O33: Decrypt undoes Encrypt (`decrypt_encrypt`), and on the finite set of blocks a map that is undone is also
onto, so Encrypt undoes Decrypt. -/
theorem decryptInvertsEncrypt : Obligations.DecryptInvertsEncrypt := by
  intro t k0 k1 x ht
  have undo : Function.LeftInverse (decrypt t k0 k1) (encrypt t k0 k1) := decrypt_encrypt ht k0 k1
  have finite : Finite Block := Finite.of_injective BitVec.toFin fun _ _ => BitVec.eq_of_toFin_eq
  have onto : Function.Surjective (encrypt t k0 k1) := Finite.surjective_of_injective undo.injective
  exact ⟨undo x, undo.rightInverse_of_surjective onto x⟩

end Sys2Proof.Machine
end

section
/-! PROOF. What a host sees over several edges: one command from accept to result, a result held, reset at power-up
(rules R109, R110, R112, R140, R143), and the lines a host drives (rule R49). -/

namespace Sys2Proof.Machine

/-! ### Cycles one after another -/

/-- Cycles whose first answers a next state go on from there. -/
theorem cycles_cons_of_next {i : Inputs} {s t : State} (h : cycle i s = .next t) (is : List Inputs) :
    cycles (i :: is) s = cycles is t := by
  rw [cycles, h]

/-- Cycles at two runs of edges one after the other. -/
theorem cycles_append_of_next {is : List Inputs} {s t : State} (h : cycles is s = .next t) (js : List Inputs) :
    cycles (is ++ js) s = cycles js t := by
  induction is generalizing s with
  | nil => rw [← Host.Outcome.next.inj h, List.nil_append]
  | cons i is ih =>
    rw [cycles] at h
    rw [List.cons_append, cycles]
    cases hi : cycle i s with
    | next u => rw [hi] at h; exact ih h
    | fault r => rw [hi] at h; cases h
    | refused r => rw [hi] at h; cases h

/-- Every cycle answers a next state, whatever the ports (rules R120, R123). -/
theorem cycle_total (i : Inputs) (s : State) : ∃ t, cycle i s = .next t := by
  cases hr : i.rst with
  | true => exact ⟨_, cycle_reset hr s⟩
  | false =>
    cases hp : s.phase with
    | idle =>
      cases hv : i.inValid with
      | true => exact ⟨_, cycle_accept hp hr hv⟩
      | false => exact ⟨_, cycle_hold hp hr hv⟩
    | busy => exact ⟨_, cycle_busy hp hr⟩

/-- A BUSY CORE is not ready (rule R16). -/
theorem readyAt_of_busy {s : State} (hp : s.phase = .busy) (rst : Bool) : s.readyAt rst = false := by
  rw [State.readyAt, hp]
  rfl

/-! ### One command, and its result -/

/-- out_data is RES while OV = 1 (rule R16). -/
theorem outData_of_valid {s : State} (h : s.ov = true) : s.outData = s.res := by
  rw [State.outData, h]

/-- Core of the keys a command loads is the result of the command (rules R101, R102, R110). -/
theorem princeCore_loadedKeys (t : Tables) (i : Inputs) :
    princeCore t (loadedKeys t (modeOf i.inMode) (keyHalf0 i.inKey) (keyHalf1 i.inKey)).1
      (loadedKeys t (modeOf i.inMode) (keyHalf0 i.inKey) (keyHalf1 i.inKey)).2 i.inData (modeOf i.inMode) =
      commandResult t i := by
  rw [commandResult]
  cases i.inMode with
  | false => rfl
  | true => rfl

/-- Settles O40: the accept edge (`cycle_accept`), then edges that count down and complete
(`busyEdgesCountDownAndComplete`), then hold edges (`cycles_hold`). -/
theorem hostObservesOneCommand : Obligations.HostObservesOneCommand := by
  intro s p is quiet hp hl hr hv hnr hn hq
  have accepted := cycle_accept hp hr hv
  obtain ⟨running, t, run, phase, ov, res⟩ := busyEdgesCountDownAndComplete
    (s.accept (modeOf p.inMode) (keyHalf0 p.inKey) (keyHalf1 p.inKey) p.inData).counted is rfl rfl
    (one_le_latencyOf hl _) hn hnr
  refine ⟨fun n hlt => ?before, ?after⟩
  case before =>
    obtain ⟨u, run, phase, -, ov, -⟩ := running n (hlt.trans_eq hn)
    exact ⟨u, (cycles_cons_of_next accepted _).trans run, readyAt_of_busy phase false, ov⟩
  case after =>
    have both : cycles (p :: is) s = .next t := (cycles_cons_of_next accepted is).trans run
    refine ⟨_, (cycles_append_of_next both quiet).trans (cycles_hold phase hq), readyAt_false_of_idle phase, ov, ?_⟩
    calc State.outData { t with edges := t.edges + quiet.length }
      _ = t.res := outData_of_valid ov
      _ = commandResult s.tables p := res.trans (princeCore_loadedKeys s.tables p)

/-- Settles O41: hold edges change the edge count alone (`cycles_hold`), and the accept edge clears OV
(`cycle_accept`). -/
theorem resultHeldUntilTheNextCommand : Obligations.ResultHeldUntilTheNextCommand := by
  intro s quiet hp hov hq
  refine ⟨_, cycles_hold hp hq, hov, ?_, hp, fun p hr hv => ?_⟩
  · calc State.outData { s with edges := s.edges + quiet.length }
      _ = s.res := outData_of_valid hov
      _ = s.outData := (outData_of_valid hov).symm
  · exact ⟨_, cycle_accept hp hr hv, rfl, rfl⟩

/-- Reset edges, at least one, lead from any state to an IDLE CORE with OV = 0 and the tables and latency as they were
(rules R140, R142). -/
theorem cycles_reset {r : Inputs} {rs : List Inputs} (hr : r.rst = true) (hrs : ∀ i ∈ rs, i.rst = true) (s : State) :
    ∃ t, cycles (r :: rs) s = .next t ∧ t.phase = .idle ∧ t.ov = false ∧ t.tables = s.tables ∧
      t.latency = s.latency := by
  induction rs generalizing r s with
  | nil => exact ⟨_, cycles_cons_of_next (cycle_reset hr s) [], rfl, rfl, rfl, rfl⟩
  | cons i rs ih =>
    obtain ⟨hi, rest⟩ := List.forall_mem_cons.mp hrs
    obtain ⟨t, run, registers⟩ := ih hi rest s.resetRegs.counted
    exact ⟨t, (cycles_cons_of_next (cycle_reset hr s) _).trans run, registers⟩

/-- Settles O44: reset edges from the power-up state are reset edges from any state (`cycles_reset`). -/
theorem powerUpIsReadyAfterReset : Obligations.PowerUpIsReadyAfterReset := by
  intro tables latency r rs hr hrs
  obtain ⟨s, run, phase, ov, ht, hl⟩ := cycles_reset hr hrs (State.powerUp tables latency)
  exact ⟨s, run, phase, ov, ht, hl, readyAt_false_of_idle phase⟩

/-! ### The lines a host drives -/

/-- A line that takes an edge leads where the cycle with its ports leads (rule R49). -/
theorem hostCycle_of_next {h : HostRun} {ports : Inputs} {t : State} (next : cycle ports h.state = .next t)
    (after : State → List HostLine) : hostCycle h ports after = .next ⟨after t, t, h.vars⟩ := by
  rw [hostCycle, next]

/-- A command line that an IDLE CORE accepts is done with that edge (rule R49). -/
theorem hostCommand_of_idle {h : HostRun} {mode : Bool} {k0 k1 d : Block} {t : State} (hp : h.state.phase = .idle)
    (next : cycle (commandPorts mode k0 k1 d) h.state = .next t) (rest : List HostLine) :
    hostCommand h mode k0 k1 d rest = .next ⟨rest, t, h.vars⟩ := by
  rw [hostCommand, hostCycle_of_next next, if_pos (readyAt_false_of_idle hp)]

/-- A command line that finds the CORE BUSY stays for the next edge (rule R49). -/
theorem hostCommand_of_busy {h : HostRun} {mode : Bool} {k0 k1 d : Block} {t : State} (hp : h.state.phase = .busy)
    (next : cycle (commandPorts mode k0 k1 d) h.state = .next t) (rest : List HostLine) :
    hostCommand h mode k0 k1 d rest = .next ⟨h.lines, t, h.vars⟩ := by
  rw [hostCommand, hostCycle_of_next next, readyAt_of_busy hp, if_neg Bool.false_ne_true]

/-- The key halves of a command on the ports are those of its line (rules R41, R49). -/
theorem keyHalves_append (k0 k1 : Block) : keyHalf0 (k0 ++ k1) = k0 ∧ keyHalf1 (k0 ++ k1) = k1 := by
  constructor
  · calc (k0 ++ k1).extractLsb' 64 64
      _ = k0.extractLsb' 0 64 := BitVec.extractLsb'_append_eq_of_le (by decide)
      _ = k0 := BitVec.extractLsb'_eq_self
  · calc (k0 ++ k1).extractLsb' 0 64
      _ = k1.extractLsb' 0 64 := BitVec.extractLsb'_append_eq_of_add_le (by decide)
      _ = k1 := BitVec.extractLsb'_eq_self

/-- The cycle of a command line in an IDLE CORE loads the line's mode, key and block (rules R49, R110). -/
theorem cycle_commandPorts {s : State} (hp : s.phase = .idle) (mode : Bool) (k0 k1 d : Block) :
    cycle (commandPorts mode k0 k1 d) s = .next (s.accept (modeOf mode) k0 k1 d).counted := by
  obtain ⟨half0, half1⟩ := keyHalves_append k0 k1
  have accepted := cycle_accept (i := commandPorts mode k0 k1 d) hp rfl rfl
  simp only [commandPorts, half0, half1] at accepted
  exact accepted

/-- IDLE n is n quiet cycles and one line without an edge (rule R49). -/
theorem hostRun_idle (n : Nat) (s : State) (rest : List HostLine) (vars : List (String × Block)) :
    ∃ t, cycles (List.replicate n quietPorts) s = .next t ∧
      hostRun (n + 1) ⟨.idle n :: rest, s, vars⟩ = .next ⟨rest, t, vars⟩ := by
  induction n generalizing s with
  | zero => exact ⟨s, rfl, rfl⟩
  | succ n ih =>
    obtain ⟨u, next⟩ := cycle_total quietPorts s
    obtain ⟨t, run, host⟩ := ih u
    have line : hostStep ⟨.idle (n + 1) :: rest, s, vars⟩ = .next ⟨.idle n :: rest, u, vars⟩ :=
      hostCycle_of_next next fun _ => .idle n :: rest
    exact ⟨t, (cycles_cons_of_next next _).trans run, by rw [hostRun, line]; exact host⟩

/-- Settles O59: a line with an edge is the cycle with its ports (`hostCycle_of_next`), a command line by the phase it
finds (`hostCommand_of_idle`, `hostCommand_of_busy`), IDLE n by `hostRun_idle`. -/
theorem hostLinesDriveTheirEdges : Obligations.HostLinesDriveTheirEdges := by
  intro s rest vars k0 k1 d name
  obtain ⟨quiet, quietNext⟩ := cycle_total quietPorts s
  refine ⟨fun hp => ?encAccepted, fun hp => ?encWaits, fun hp => ?decAccepted, fun hp => ?decWaits, fun p hr => ?reset,
    rfl, fun n => ?idle, fun n => hostRun_idle n s rest vars, ⟨rfl, rfl⟩, ?waitv, fun hov => ?readValid,
    fun hov => ?readInvalid, fun p => ?poke, rfl⟩
  case encAccepted =>
    have next := cycle_commandPorts hp false k0 k1 d
    exact ⟨_, next, hostCommand_of_idle hp next rest, rfl, rfl, rfl, rfl, rfl⟩
  case encWaits =>
    have next := cycle_busy (i := commandPorts false k0 k1 d) hp rfl
    exact ⟨_, next, hostCommand_of_busy hp next rest⟩
  case decAccepted =>
    have next := cycle_commandPorts hp true k0 k1 d
    exact ⟨_, next, hostCommand_of_idle hp next rest, rfl, rfl, rfl, rfl⟩
  case decWaits =>
    have next := cycle_busy (i := commandPorts true k0 k1 d) hp rfl
    exact ⟨_, next, hostCommand_of_busy hp next rest⟩
  case reset =>
    exact ⟨_, cycle_reset hr s, hostCycle_of_next (cycle_reset rfl s) fun _ => rest, rfl, rfl⟩
  case idle => exact ⟨quiet, quietNext, hostCycle_of_next quietNext fun _ => .idle n :: rest⟩
  case waitv =>
    exact ⟨quiet, quietNext, hostCycle_of_next quietNext fun t => if t.outValid then rest else .waitv :: rest⟩
  case readValid => simp [hostStep, State.outValid, hov, outData_of_valid hov]
  case readInvalid => simp [hostStep, State.outValid, hov]
  case poke =>
    obtain ⟨t, next⟩ := cycle_total p s
    exact ⟨t, next, hostCycle_of_next next fun _ => rest⟩

end Sys2Proof.Machine
end

section
/-! PROOF. The status outputs (rule R16), and what rests on the default tables: their laws and entries (rules R70, R73,
R76, R94) and the vectors of 95_test_vectors.md. -/

namespace Sys2Proof.Machine

/-- Settles O56: in_ready is a conjunction, out_valid is OV, out_data is `outData_of_valid`. -/
theorem statusPortsShowTheState : Obligations.StatusPortsShowTheState :=
  fun s rst => ⟨by simp [State.readyAt], rfl, outData_of_valid⟩

/-- The laws of a table hold of the default tables (rules R3, R95). -/
theorem defaultTables_lawful : defaultTables.Lawful := by decide

/-- Settles O57: the laws are `defaultTables_lawful`, the entries are those of the definition. -/
theorem defaultTablesAreLawful : Obligations.DefaultTablesAreLawful :=
  ⟨defaultTables_lawful, rfl, rfl, rfl, rfl, rfl, rfl, rfl, rfl, by decide, by decide, by decide⟩

/-- Settles O58: Encrypt with the default tables is evaluated on the five vectors. -/
theorem publishedVectors : Obligations.PublishedVectors :=
  ⟨by decide +kernel, by decide +kernel, by decide +kernel, by decide +kernel, by decide +kernel⟩

/-! ### Vector V-KF -/

/-- The ST that legal micro-operations leave depends on the tables, MODE, ST, K0R and K1R alone (rules R71 to R82). -/
theorem stOf_runUops_congr {is : List Instr} (h : is ⊆ legalUops) {s u : State} (ht : s.tables = u.tables)
    (hm : s.mode = u.mode) (hc : s.cipher = u.cipher) : stOf (runUops is s) = stOf (runUops is u) := by
  induction is generalizing s u with
  | nil => exact congrArg (fun c => some c.1) hc
  | cons i is ih =>
    obtain ⟨hi, his⟩ := List.cons_subset.mp h
    obtain ⟨f, next⟩ := exec_legal_reads hi
    rw [runUops_cons_of_next (next s), runUops_cons_of_next (next u), ht, hm, hc]
    exact ih his ht hm rfl

/-- The state in which vector V-KF starts the micro-sequence. -/
def kflipVectorState : State :=
  State.reset.accept .backward 0x0123456789abcdef#64 0xfedcba9876543210#64 0x603cd95fa72a8704#64

/-- Settles O23: the runs leave the same ST as those from `kflipVectorState` (`stOf_runUops_congr`), which are
evaluated. -/
theorem kflipPlacementVector : Obligations.KflipPlacementVector := by
  intro s ht hm hst h0 h1 before after
  have cipher : s.cipher = kflipVectorState.cipher := by rw [State.cipher, hst, h0, h1]; decide
  have same : ∀ {is : List Instr}, is ⊆ legalUops → stOf (runUops is s) = stOf (runUops is kflipVectorState) :=
    fun legal => stOf_runUops_congr legal ht hm cipher
  refine ⟨?rom, ?beforeMl, ?beforeXkK0, ?afterXkK1b, ?first, ?leftOut⟩
  all_goals
    rw [same (by decide)]
    decide +kernel

end Sys2Proof.Machine
end
